-- ==== Sys2Proof/Word.lean ====
section
/-! DEFINITION. The word types of the block: 64-bit words (R5, R16) and 68-bit commands (R60).
Their `+` and `*` are modulo 2^64 (R17) and their shifts logical (R18). -/

namespace Sys2Proof

/-- A state word, seed, raw draw or intermediate: an unsigned 64-bit pattern (R5, R16). -/
abbrev Word := BitVec 64

/-- A command word `cmd[67:0]` (R60). -/
abbrev Command := BitVec 68

end Sys2Proof
end

