-- ==== Sys2Proof/Config.lean ====
section
/-! DEFINITION. The configuration record of spec/00_scope.md section 4: the constants the spec fixes, and the record of
the five words it asks a model to take as arguments (92_eei_decisions.md, "Configuration parameters"). -/

namespace Sys2Proof

/-- The number of words of the state vector (R6). -/
abbrev N : Nat := 312

/-- The middle-word offset of the twist (R7). -/
abbrev M : Nat := 156

/-- The multiplier of the seeding recurrence (R10). -/
def MULT : Word := 6364136223846793005#64

/-- The right-shift distance of the seeding recurrence (R11). -/
def SEED_SHIFT : Nat := 62

/-- Distance of tempering stage 1, to the right (R13). -/
def T_U : Nat := 29

/-- Distance of tempering stage 2, to the left (R13). -/
def T_S : Nat := 17

/-- Distance of tempering stage 3, to the left (R13). -/
def T_T : Nat := 37

/-- Distance of tempering stage 4, to the right (R13). -/
def T_L : Nat := 43

/-- The words the spec makes configuration parameters: the twist's upper mask `UM` (R8, D13), the twist constant `A`
(R9, D14) and the tempering masks `T_B`, `T_C`, `T_D` (R12, D14). -/
structure Config where
  um : Word
  a  : Word
  tB : Word
  tC : Word
  tD : Word
  deriving DecidableEq, Repr

/-- The lower mask: `LM = NOT UM` (R8). -/
def Config.lm (c : Config) : Word := ~~~c.um

/-- The values this hardware takes (R8, R9, R12). PRESUMED: the spec marks all five "from general knowledge, not in
source"; unsafe (log 7). -/
def Config.hardware : Config where
  um := 0xFFFFFFFF80000000#64
  a  := 0xB5026F5AA96619E9#64
  tB := 0x5555555555555555#64
  tC := 0x71D67FFFEDA60000#64
  tD := 0xFFF7EEE000000000#64

/-- The named alternative setting `UM_DOC` of R8 and R97. -/
def Config.documentMask : Config :=
  { Config.hardware with um := 0x8000000000000000#64 }

/-- What the source says of a configuration: `A` is odd (R9), and bit 0 belongs to `LM` (R91, "under both mask
settings of rule R8"). -/
def Config.lawful (c : Config) : Bool := c.a.getLsbD 0 && !c.um.getLsbD 0

/-- The open parameter `SEED32_EXT` (R15, D19): how a host that holds a 32-bit seed widens it. It is outside the block;
the model takes it as an argument wherever it is used (log 13). -/
inductive Seed32Ext where
  | sign
  | zero
  deriving DecidableEq, Repr

end Sys2Proof
end

