-- ==== Sys2Proof/Syntax.lean ====
section
/-! DEFINITION. The commands of the block: one constructor for each row of spec/opcode_table.json (R64, R67). A command's
ignored argument bits are kept as a field (R65; DESIGN CHOICE, safe, log 8), so that no bit of a command word is lost and
"ignored" is a fact about the meanings. -/

namespace Sys2Proof

/-- A command (R64). Fields are in the order of their bits, from bit 63 down. -/
inductive Instr where
  /-- 0x1, `construct(seed)` (R82). -/
  | init (seed : Word)
  /-- 0x2 (R117). -/
  | nextDouble (arg : Word)
  /-- 0x3 (R119). -/
  | nextFloat (arg : Word)
  /-- 0x4 (R120). -/
  | nextInt (arg : Word)
  /-- 0x5 (R122): `arg[63:32]` is ignored and `bound` is `arg[31:0]` (R65). -/
  | nextIntBound (ignored : BitVec 32) (bound : BitVec 32)
  /-- 0x6 (R116). -/
  | nextLong (arg : Word)
  /-- 0x7 (R130). -/
  | nextBoolean (arg : Word)
  /-- 0x8 (R131). -/
  | nextBytes (arg : Word)
  /-- 0x9 (R132). -/
  | nextGaussian (arg : Word)
  /-- 0xA (R133). -/
  | setSeed (value : Word)
  /-- 0xB (R104). -/
  | nextRaw (arg : Word)
  /-- 0x0, reserved (R67). -/
  | reserved0 (arg : Word)
  /-- 0xC, reserved (R67). -/
  | reservedC (arg : Word)
  /-- 0xD, reserved (R67). -/
  | reservedD (arg : Word)
  /-- 0xE, reserved (R67). -/
  | reservedE (arg : Word)
  /-- 0xF, reserved (R67). -/
  | reservedF (arg : Word)
  deriving DecidableEq, Repr

end Sys2Proof
end

