-- ==== Sys2Proof/Assembly.lean ====
section
/-! DEFINITION. The textual form of a command (R70) as abstract syntax: the mnemonic and its literal operand. `RESET` is
not a command, the reserved opcodes have no mnemonic of R70, and there are no pseudo-commands, so none of them is here. -/

namespace Sys2Proof

/-- A literal operand: decimal, which may be negative, or `0x...` (R70). -/
inductive Literal where
  | dec (v : Int)
  | hex (v : Nat)
  deriving DecidableEq, Repr

/-- The number a literal writes. -/
def Literal.value : Literal → Int
  | .dec v => v
  | .hex v => v

/-- A line of R70's textual form. The operands of `SET_SEED` and `NEXT_BYTES` are optional there. -/
inductive Asm where
  | init (seed : Literal)
  | nextIntBound (bound : Literal)
  | setSeed (value : Option Literal)
  | nextBytes (arg : Option Literal)
  | nextRaw
  | nextLong
  | nextInt
  | nextDouble
  | nextFloat
  | nextBoolean
  | nextGaussian
  deriving DecidableEq, Repr

end Sys2Proof
end

