-- ==== Sys2Proof/WellFormed.lean ====
section
/-! DEFINITION. What a well-formed term is. Every `Instr` is one: each of its fields is a bit vector of exactly the width
R60 and R65 give it, every value of every field is a legal encoding (R65: "no value of it is an error"), and the five
reserved opcodes have constructors of their own. What can be ill-formed is a raw number offered as a command word (R60:
68 bits) and a literal of the textual form (R70: 64-bit literals, 32-bit bounds). -/

namespace Sys2Proof

/-- A number is a command word when it has no bit above bit 67 (R60, R68: "every command is 68 bits"). -/
def wellFormedWord (w : Nat) : Bool := w < 2 ^ 68

/-- A 64-bit literal: hexadecimal below 2^64, or decimal in the union of the signed and the unsigned range, since "a
negative decimal means its two's-complement 64-bit pattern" (R70; DEDUCED, safe, log 15). -/
def Literal.fits64 : Literal → Bool
  | .dec v => -2 ^ 63 ≤ v && v < 2 ^ 64
  | .hex v => v < 2 ^ 64

/-- A bound literal: "signed 32-bit decimal or 0x... of 8 digits" (R70). -/
def Literal.fitsBound : Literal → Bool
  | .dec v => -2 ^ 31 ≤ v && v < 2 ^ 31
  | .hex v => v < 2 ^ 32

/-- A line of the textual form is well-formed when its literal fits its operand (R70). -/
def Asm.wellFormed : Asm → Bool
  | .init seed => seed.fits64
  | .nextIntBound bound => bound.fitsBound
  | .setSeed none => true
  | .setSeed (some value) => value.fits64
  | .nextBytes none => true
  | .nextBytes (some arg) => arg.fits64
  | .nextRaw => true
  | .nextLong => true
  | .nextInt => true
  | .nextDouble => true
  | .nextFloat => true
  | .nextBoolean => true
  | .nextGaussian => true

end Sys2Proof
end

