-- ==== Sys2Proof/Decode.lean ====
section
/-! DEFINITION. Decoding and encoding of command words (R60, R64, R65, R67, R68), written from the `encoding` column of
spec/opcode_table.json, and the host-side assembler of the textual form (R70). -/

namespace Sys2Proof

/-- `arg = cmd[63:0]` (R60). -/
def argField (w : Command) : Word := w.extractLsb' 0 64

/-- `op = cmd[67:64]` (R60). -/
def opField (w : Command) : BitVec 4 := w.extractLsb' 64 4

/-- The command that an opcode and an argument stand for (R64). Each of the sixteen values of the four opcode bits has an
arm of its own, the five reserved ones among them (R67). -/
def commandOf (op : BitVec 4) (arg : Word) : Instr :=
  match op.getLsbD 3, op.getLsbD 2, op.getLsbD 1, op.getLsbD 0 with
  | false, false, false, false => .reserved0 arg
  | false, false, false, true  => .init arg
  | false, false, true,  false => .nextDouble arg
  | false, false, true,  true  => .nextFloat arg
  | false, true,  false, false => .nextInt arg
  | false, true,  false, true  => .nextIntBound (arg.extractLsb' 32 32) (arg.extractLsb' 0 32)
  | false, true,  true,  false => .nextLong arg
  | false, true,  true,  true  => .nextBoolean arg
  | true,  false, false, false => .nextBytes arg
  | true,  false, false, true  => .nextGaussian arg
  | true,  false, true,  false => .setSeed arg
  | true,  false, true,  true  => .nextRaw arg
  | true,  true,  false, false => .reservedC arg
  | true,  true,  false, true  => .reservedD arg
  | true,  true,  true,  false => .reservedE arg
  | true,  true,  true,  true  => .reservedF arg

/-- The command a word stands for: "`op` alone selects the operation" (R60, R68). -/
def decode (w : Command) : Instr := commandOf (opField w) (argField w)

/-- Why a number is no command word. -/
inductive DecodeError where
  /-- A bit above bit 67 is set: the only command length is 68 bits (R60, R68). -/
  | widerThanCommand
  deriving DecidableEq, Repr

/-- The command that the bits `w` stand for, bit 0 the least significant, or the reason they are none. -/
def decodeBits (w : Nat) : Except DecodeError Instr :=
  if wellFormedWord w then .ok (decode (BitVec.ofNat 68 w)) else .error .widerThanCommand

/-- The instruction the decoder reads from the bits `w`, numbered as spec/opcode_table.json numbers them (log 9). A
command has one length, so the number of bits the table gives a row selects nothing. -/
def decodeTableWord (_nbits w : Nat) : Option Instr :=
  match decodeBits w with
  | .ok i => some i
  | .error _ => none

/-- The opcode of a command (R64, R67). -/
def Instr.opcode : Instr → BitVec 4
  | .init _ => 0x1#4
  | .nextDouble _ => 0x2#4
  | .nextFloat _ => 0x3#4
  | .nextInt _ => 0x4#4
  | .nextIntBound _ _ => 0x5#4
  | .nextLong _ => 0x6#4
  | .nextBoolean _ => 0x7#4
  | .nextBytes _ => 0x8#4
  | .nextGaussian _ => 0x9#4
  | .setSeed _ => 0xA#4
  | .nextRaw _ => 0xB#4
  | .reserved0 _ => 0x0#4
  | .reservedC _ => 0xC#4
  | .reservedD _ => 0xD#4
  | .reservedE _ => 0xE#4
  | .reservedF _ => 0xF#4

/-- The 64 argument bits of a command (R65). -/
def Instr.argBits : Instr → Word
  | .init seed => seed
  | .nextDouble arg => arg
  | .nextFloat arg => arg
  | .nextInt arg => arg
  | .nextIntBound ignored bound => ignored ++ bound
  | .nextLong arg => arg
  | .nextBoolean arg => arg
  | .nextBytes arg => arg
  | .nextGaussian arg => arg
  | .setSeed value => value
  | .nextRaw arg => arg
  | .reserved0 arg => arg
  | .reservedC arg => arg
  | .reservedD arg => arg
  | .reservedE arg => arg
  | .reservedF arg => arg

/-- The word of a command: `cmd = {op, arg}` (R60). -/
def encode (i : Instr) : Command := i.opcode ++ i.argBits

/-- The `n`-bit pattern of a literal, two's complement when it is negative (R70). -/
def Literal.bits (n : Nat) (l : Literal) : BitVec n := BitVec.ofInt n l.value

/-- The 64 bits of an optional literal, "optional, default 0" (R70). -/
def optionalBits : Option Literal → Word
  | none => 0#64
  | some l => l.bits 64

/-- The command a line of the textual form writes (R70): commands without operand encode `arg` as 0. -/
def assemble : Asm → Instr
  | .init seed => .init (seed.bits 64)
  | .nextIntBound bound => .nextIntBound 0#32 (bound.bits 32)
  | .setSeed value => .setSeed (optionalBits value)
  | .nextBytes arg => .nextBytes (optionalBits arg)
  | .nextRaw => .nextRaw 0#64
  | .nextLong => .nextLong 0#64
  | .nextInt => .nextInt 0#64
  | .nextDouble => .nextDouble 0#64
  | .nextFloat => .nextFloat 0#64
  | .nextBoolean => .nextBoolean 0#64
  | .nextGaussian => .nextGaussian 0#64

/-- How a host widens a 32-bit seed before it presents `INIT`, under the open parameter `SEED32_EXT` (R15, D19). The
block sees only the result (log 13). -/
def widenSeed : Seed32Ext → BitVec 32 → Word
  | .sign, seed => seed.signExtend 64
  | .zero, seed => seed.setWidth 64

end Sys2Proof
end

