-- ==== Sys2Proof/Machine/State.lean ====
section
/-! DEFINITION. The state of the block (spec/10_state.md), the events and responses of its ports (R60 to R63, R165), and
the reasons a step can stop. All plain data. -/

namespace Sys2Proof.Machine

/-- The state vector `mt[0..311]`: exactly 312 words of 64 bits (R20, R21). -/
abbrev StateVector := Vector Word 312

/-- The cursor `mti`, an integer in [0, 312] (R24; the values 313 to 511 of its 9 bits "never occur"; DEDUCED, safe,
log 10). -/
abbrev Cursor := Fin 313

/-- The architectural state: the constructor is the bit `seeded`, and `mt` and `mti` hold a value exactly while it is 1
(R27, R34: "a state type with two constructors"; log 5). -/
inductive Engine where
  /-- UNSEEDED, `seeded = 0`: `mt` and `mti` hold no value. -/
  | unseeded
  /-- SEEDED, `seeded = 1`. -/
  | seeded (mt : StateVector) (mti : Cursor)
  deriving DecidableEq, Repr

/-- The status codes the block produces (R63); codes 5 to 7 are never produced and are not here (U12). -/
inductive Status where
  | ok
  | errUnsupported
  | errInvalidArg
  | errIllegalOp
  | errState
  deriving DecidableEq, Repr

/-- The error kinds of R140. -/
inductive ErrorKind where
  | unsupported
  | invalidArgument
  | illegalOp
  | stateError
  deriving DecidableEq, Repr

/-- A response: its status and its 64 bits of data (R62). -/
structure Response where
  status : Status
  data   : Word
  deriving DecidableEq, Repr

/-- What the host can do to the block: present a command (R60), or apply reset (R165). -/
inductive HostEvent where
  | command (w : Command)
  | reset
  deriving DecidableEq, Repr

/-- The machine: the block's state, what the host presents next (oldest first; DESIGN CHOICE, safe, log 1), and the
response of the last transaction since reset (DESIGN CHOICE, unsafe, log 2). -/
structure State where
  engine : Engine
  host   : List HostEvent
  rsp    : Option Response
  deriving DecidableEq, Repr

/-- Nothing stops the block: every error is a response, after which "the next command is accepted and executed normally"
(R141, R147, R148), and no index is out of range (R42). So there is no fault to raise (log 6). -/
inductive Fault where
  deriving DecidableEq, Repr

/-- Why an instruction has no meaning. -/
inductive Refusal where
  /-- Raised by no arm of `exec`: every command has its meaning. It would be safe: the machine would stop. -/
  | notModelled (mnemonic : String)
  deriving DecidableEq, Repr

/-- One step's outcome. -/
abbrev Result := Host.Outcome State Fault Refusal

/-- The machine after reset or power-on (R34, R165): UNSEEDED, `mt` and `mti` without a value, no response, and nothing
presented. -/
def State.reset : State where
  engine := .unseeded
  host   := []
  rsp    := none

/-- `s` with another block state. -/
def State.withEngine (s : State) (e : Engine) : State := { s with engine := e }

/-- `s` with other pending events. -/
def State.withHost (s : State) (h : List HostEvent) : State := { s with host := h }

/-- `s` with another response on the response port. -/
def State.withRsp (s : State) (r : Option Response) : State := { s with rsp := r }

/-- The state vector, where it holds a value (R34). -/
def State.mt? (s : State) : Option StateVector :=
  match s.engine with
  | .unseeded => none
  | .seeded mt _ => some mt

/-- The cursor, where it holds a value (R34). -/
def State.mti? (s : State) : Option Cursor :=
  match s.engine with
  | .unseeded => none
  | .seeded _ mti => some mti

end Sys2Proof.Machine
end

