-- ==== Sys2Proof/Machine/Flags.lean ====
section
/-! DEFINITION. The block's one flag, `seeded` (R27, R28: "no other flags, no condition codes and no predicates"), and the
status codes of its responses (R62, R63). No operation records carry, overflow, zero or sign. -/

namespace Sys2Proof.Machine

/-- The flag `seeded` of a block state (R27). -/
def Engine.isSeeded : Engine → Bool
  | .unseeded => false
  | .seeded _ _ => true

/-- The flag `seeded` (R27). -/
def State.seeded (s : State) : Bool := s.engine.isSeeded

/-- The 3-bit code of a status (R63). -/
def Status.code : Status → BitVec 3
  | .ok => 0#3
  | .errUnsupported => 1#3
  | .errInvalidArg => 2#3
  | .errIllegalOp => 3#3
  | .errState => 4#3

/-- The status an error kind is answered with (R140). -/
def ErrorKind.status : ErrorKind → Status
  | .unsupported => .errUnsupported
  | .invalidArgument => .errInvalidArg
  | .illegalOp => .errIllegalOp
  | .stateError => .errState

/-- The response word `rsp[66:0] = {status, data}` (R62). -/
def Response.toWord (r : Response) : BitVec 67 := r.status.code ++ r.data

end Sys2Proof.Machine
end

