-- ==== Sys2Proof/Machine/Operands.lean ====
section
/-! DEFINITION. Operand assembly (R65) and the five index forms of the state vector (R41) with its one read and one write
primitive (R40). -/

namespace Sys2Proof.Machine

/-- `seed = arg[63:0]`, "all 64 bits, no extension, no range check" (R65). -/
def seedOperand (arg : Word) : Word := arg

/-- `bound = sint_32(arg[31:0])` (R65), from the 32 bits that decoding took from `arg[31:0]`. -/
def boundOperand (bound : BitVec 32) : Int := bound.toInt

/-- The bound of an argument word: `sint_32(arg[31:0])` (R65). -/
def boundOfArg (arg : Word) : Int := boundOperand (arg.extractLsb' 0 32)

/-- An index reduced modulo `N` (R41). -/
def wrap (i : Nat) : Fin N := ⟨i % N, Nat.mod_lt i (by decide)⟩

/-- The "next word, wrapping" form `(i + 1) mod N` (R41). -/
def nextIndex (i : Nat) : Fin N := wrap (i + 1)

/-- The "middle word, wrapping" form `(i + M) mod N` (R41). -/
def middleIndex (i : Nat) : Fin N := wrap (i + M)

/-- `mt[i]`, one whole word (R40). -/
def readWord (mt : StateVector) (i : Fin N) : Word := mt[i.val]

/-- `mt[i] <- v`, one whole word (R40). -/
def writeWord (mt : StateVector) (i : Fin N) (v : Word) : StateVector := mt.set i.val v

end Sys2Proof.Machine
end

