-- ==== Sys2Proof/Machine/Ops.lean ====
section
/-! DEFINITION. The shared operations: seeding (R80 to R82), the twist (R90 to R93), tempering (R101), the draw (R102), the
response and the raising of an error (R141), and the reset event (R165). There is no trap entry and no return from one: an
error is its response and nothing else (R147, R148). -/

namespace Sys2Proof.Machine

/-! ### Seeding -/

/-- `SeedStep(prev, i)` (R81). -/
def seedStep (prev : Word) (i : Nat) : Word :=
  MULT * (prev ^^^ (prev >>> SEED_SHIFT)) + BitVec.ofNat 64 i

/-- The `count` words that seeding writes from index `i` on, after it has written `prev` at index `i - 1` (the "previous
word" form of R41): the loop of R82, in ascending order. -/
def seedWords : (count i : Nat) → (prev : Word) → List Word
  | 0, _, _ => []
  | count + 1, i, prev => seedStep prev i :: seedWords count (i + 1) (seedStep prev i)

/-- The seeding loop writes one word an iteration. -/
theorem seedWords_length (count i : Nat) (prev : Word) : (seedWords count i prev).length = count := by
  induction count generalizing i prev with
  | zero => rfl
  | succ count ih => simp [seedWords, ih]

/-- The state vector that `Seed(seed)` leaves: `mt[0] = seed`, then the loop over `i = 1 .. N - 1` (R82). Seeding writes
every word, so no earlier content enters (R80). -/
def seedVector (seed : Word) : StateVector :=
  ⟨(seed :: seedWords (N - 1) 1 seed).toArray, by simp [seedWords_length]⟩

/-- The block after `Seed(seed)`: the vector, `mti <- N` and `seeded <- 1` (R82). -/
def seedEngine (seed : Word) : Engine := .seeded (seedVector seed) ⟨N, by decide⟩

/-! ### The twist -/

/-- `TwistWord(cur, nxt, mid)` (R91). -/
def twistWord (c : Config) (cur nxt mid : Word) : Word :=
  let x := (cur &&& c.um) ||| (nxt &&& c.lm)
  let xA := if x.getLsbD 0 then (x >>> 1) ^^^ c.a else x >>> 1
  mid ^^^ xA

/-- Iteration `i` of the twist, on the one array that is being rewritten (R92, R43). -/
def twistIter (c : Config) (i : Nat) (mt : StateVector) : StateVector :=
  writeWord mt (wrap i)
    (twistWord c (readWord mt (wrap i)) (readWord mt (nextIndex i)) (readWord mt (middleIndex i)))

/-- The first `k` iterations of the twist, `i = 0 .. k - 1` in ascending order (R92). -/
def twistLoop (c : Config) : (k : Nat) → StateVector → StateVector
  | 0, mt => mt
  | k + 1, mt => twistIter c k (twistLoop c k mt)

/-- The state vector after a twist: all `N` iterations (R92). -/
def twistVector (c : Config) (mt : StateVector) : StateVector := twistLoop c N mt

/-- `Twist()`: the regenerated vector, and the cursor at 0 (R92). -/
def twist (c : Config) (mt : StateVector) : StateVector × Fin N := (twistVector c mt, 0)

/-! ### Tempering and the draw -/

/-- Stage 1 of `Temper`: right 29, mask `T_B` (R101). -/
def temper1 (c : Config) (y : Word) : Word := y ^^^ ((y >>> T_U) &&& c.tB)

/-- Stage 2 of `Temper`: left 17, mask `T_C` (R101). -/
def temper2 (c : Config) (y : Word) : Word := y ^^^ ((y <<< T_S) &&& c.tC)

/-- Stage 3 of `Temper`: left 37, mask `T_D` (R101). -/
def temper3 (c : Config) (y : Word) : Word := y ^^^ ((y <<< T_T) &&& c.tD)

/-- Stage 4 of `Temper`: right 43, no mask (R101). -/
def temper4 (y : Word) : Word := y ^^^ (y >>> T_L)

/-- `Temper(y)`: the four stages, each applied to the result of the one before (R101). -/
def temper (c : Config) (y : Word) : Word := temper4 (temper3 c (temper2 c (temper1 c y)))

/-- What a draw gives: the tempered word, and the vector and cursor it leaves (R102). -/
structure Drawn where
  word : Word
  mt   : StateVector
  mti  : Cursor
  deriving DecidableEq, Repr

/-- Serve the word at index `i`: read it, then increment the cursor; the vector keeps the untempered word (R102). -/
def serve (c : Config) (mt : StateVector) (i : Fin N) : Drawn :=
  ⟨temper c (readWord mt i), mt, i.succ⟩

/-- `Draw()`: when `mti = N` twist first, then serve the word at the cursor (R102). -/
def draw (c : Config) (mt : StateVector) (mti : Cursor) : Drawn :=
  if h : mti.val = N then
    serve c (twist c mt).1 (twist c mt).2
  else
    serve c mt ⟨mti.val, Nat.lt_of_le_of_ne (Nat.le_of_lt_succ mti.isLt) h⟩

/-! ### Responses, errors, reset -/

/-- `respond(status, data)`: end the command with that response (R61, R62). -/
def respond (status : Status) (data : Word) (s : State) : Result :=
  .next (s.withRsp (some ⟨status, data⟩))

/-- `raise E`: no state changes, and the response is `{code(E), 0}` (R141). -/
def raise (e : ErrorKind) (s : State) : Result := respond e.status 0#64 s

/-- The body of a draw command: refused while UNSEEDED (R106, step 5 of R66); else exactly one draw, and the response is
a pure function of the drawn word (R115, step 7 of R66). -/
def drawCommand (c : Config) (format : Word → Word) (s : State) : Result :=
  match s.engine with
  | .unseeded => raise .stateError s
  | .seeded mt mti =>
    respond .ok (format (draw c mt mti).word)
      (s.withEngine (.seeded (draw c mt mti).mt (draw c mt mti).mti))

/-- The reset event: `seeded <- 0`, `mt` and `mti` hold no value, the ports are idle (R165; that no response is left on
the response port is a DESIGN CHOICE, unsafe, log 2). -/
def applyReset (s : State) : State := (s.withEngine .unseeded).withRsp none

end Sys2Proof.Machine
end

