-- ==== Sys2Proof/Machine/Formats.lean ====
section
/-! DEFINITION. The pure functions of the output formatter (spec/43_output_conversions.md): each takes one raw draw and
gives the `data` of a response (R69, R115). The binary64 and binary32 layouts and the rounding mode are the spec's own
from general knowledge (PRESUMED, unsafe, log 12). -/

namespace Sys2Proof.Machine

/-- The bit length of a number: 0 for 0, else the `L` with `2^(L-1) ≤ k < 2^L` (R118). -/
def bitLength (k : Nat) : Nat := if k = 0 then 0 else Nat.log2 k + 1

/-- `k = y >> 11 = y[63:11]`, the 53 high-order bits of a raw draw (R117). -/
def high53 (y : Word) : Nat := (y >>> 11).toNat

/-- `k = y >> 40 = y[63:40]`, the 24 high-order bits of a raw draw (R119). -/
def high24 (y : Word) : Nat := (y >>> 40).toNat

/-- `ToDouble(y)`: the binary64 encoding of `k / 2^53` (R118). -/
def toDouble (y : Word) : Word :=
  let k := high53 y
  if k = 0 then 0#64
  else
    let e := 969 + bitLength k
    let f := (k <<< (53 - bitLength k)) &&& (2 ^ 52 - 1)
    0#1 ++ (BitVec.ofNat 11 e ++ BitVec.ofNat 52 f)

/-- `ToFloat(y)`: the binary32 encoding of `k / 2^24` (R119). -/
def toFloat (y : Word) : BitVec 32 :=
  let k := high24 y
  if k = 0 then 0#32
  else
    let e := 102 + bitLength k
    let f := (k <<< (24 - bitLength k)) &&& (2 ^ 23 - 1)
    0#1 ++ (BitVec.ofNat 8 e ++ BitVec.ofNat 23 f)

/-- `RNE53(p)`: `p` rounded to 53 significant bits, ties to even (R121). -/
def rne53 (p : Nat) : Nat :=
  if p < 2 ^ 53 then p
  else
    let sh := bitLength p - 53
    let q := p >>> sh
    let r := p &&& (2 ^ sh - 1)
    let half := 2 ^ (sh - 1)
    if r > half ∨ (r = half ∧ q % 2 = 1) then (q + 1) <<< sh else q <<< sh

/-- `BoundedInt(bound, y)`, for a bound of at least 1 (R122). -/
def boundedInt (bound : Nat) (y : Word) : Nat := rne53 (bound * high53 y) >>> 53

/-- The `data` of `NEXT_RAW` and `NEXT_LONG`: all 64 bits of the draw (R69, R104, R116). -/
def formatWhole (y : Word) : Word := y

/-- The `data` of `NEXT_DOUBLE` (R69, R117). -/
def formatDouble (y : Word) : Word := toDouble y

/-- The `data` of `NEXT_FLOAT`: `zext_64(ToFloat(y))` (R69, R119). -/
def formatFloat (y : Word) : Word := (toFloat y).setWidth 64

/-- The `data` of `NEXT_INT`: `sext_64(y[31:0])` (R69, R120). -/
def formatInt (y : Word) : Word := (y.extractLsb' 0 32).signExtend 64

/-- The `data` of `NEXT_INT_BOUND`: `zext_64(BoundedInt(bound, y))` (R69, R122), where `bound ≥ 1`. -/
def formatBounded (bound : Int) (y : Word) : Word := BitVec.ofNat 64 (boundedInt bound.toNat y)

end Sys2Proof.Machine
end

