-- ==== Sys2Proof/Machine/Drawing.lean ====
section
/-! DEFINITION. The draw family (spec/42_draw_temper.md, spec/43_output_conversions.md): the six commands that consume one
word of the stream when they succeed and none when they fail (R64, R106, R115). -/

namespace Sys2Proof.Machine

/-- `NEXT_RAW`: one raw draw, all 64 bits (R104). -/
def execNextRaw (s : State) : Result := drawCommand Config.hardware formatWhole s

/-- `NEXT_LONG`: one raw draw, to be read as signed by the host; no bit changes (R116). -/
def execNextLong (s : State) : Result := drawCommand Config.hardware formatWhole s

/-- `NEXT_DOUBLE` (R117, R118). -/
def execNextDouble (s : State) : Result := drawCommand Config.hardware formatDouble s

/-- `NEXT_FLOAT` (R119). -/
def execNextFloat (s : State) : Result := drawCommand Config.hardware formatFloat s

/-- `NEXT_INT` (R120). -/
def execNextInt (s : State) : Result := drawCommand Config.hardware formatInt s

/-- `NEXT_INT_BOUND` (R122): the state is tested before the bound and the bound before the draw (steps 5 to 7 of R66), so
a refused bound consumes no word of the stream (R124). -/
def execNextIntBound (bound : BitVec 32) (s : State) : Result :=
  if s.seeded then
    if boundOperand bound ≤ 0 then raise .invalidArgument s
    else drawCommand Config.hardware (formatBounded (boundOperand bound)) s
  else raise .stateError s

end Sys2Proof.Machine
end

