-- ==== Sys2Proof/Machine/Reserved.lean ====
section
/-! DEFINITION. The reserved opcodes (R67): each "changes no state and is answered" with `ERR_ILLEGAL_OP`, "whatever `arg`
and whatever `seeded`". The answer is R141's response, so the machine goes on (R148; log 6). -/

namespace Sys2Proof.Machine

/-- Opcode 0x0 (R67). -/
def execReserved0 (s : State) : Result := raise .illegalOp s

/-- Opcode 0xC (R67). -/
def execReservedC (s : State) : Result := raise .illegalOp s

/-- Opcode 0xD (R67). -/
def execReservedD (s : State) : Result := raise .illegalOp s

/-- Opcode 0xE (R67). -/
def execReservedE (s : State) : Result := raise .illegalOp s

/-- Opcode 0xF (R67). -/
def execReservedF (s : State) : Result := raise .illegalOp s

end Sys2Proof.Machine
end

