-- ==== Sys2Proof/Machine/Seeding.lean ====
section
/-! DEFINITION. The seeding family (spec/40_seeding.md): `INIT`. -/

namespace Sys2Proof.Machine

/-- `INIT` (R82): construct the Engine from the seed; refused with `StateError` while SEEDED (R84, step 4 of R66). -/
def execInit (seed : Word) (s : State) : Result :=
  match s.engine with
  | .unseeded => respond .ok 0#64 (s.withEngine (seedEngine (seedOperand seed)))
  | .seeded _ _ => raise .stateError s

end Sys2Proof.Machine
end

