-- ==== Sys2Proof/Machine/System.lean ====
section
/-! DEFINITION. The system family (spec/44_unsupported_and_setseed.md): the three operations that always fail, and the
no-op `SET_SEED`. "A model must not give" the three "a value-returning meaning" (R135). -/

namespace Sys2Proof.Machine

/-- `NEXT_BOOLEAN`: `raise Unsupported`, in any state (R130). -/
def execNextBoolean (s : State) : Result := raise .unsupported s

/-- `NEXT_BYTES`: `raise Unsupported`, in any state; no buffer is touched (R131). -/
def execNextBytes (s : State) : Result := raise .unsupported s

/-- `NEXT_GAUSSIAN`: `raise Unsupported`, in any state (R132). -/
def execNextGaussian (s : State) : Result := raise .unsupported s

/-- `SET_SEED`: `respond(OK, 0)`, and nothing changes, in any state (R133). -/
def execSetSeed (s : State) : Result := respond .ok 0#64 s

end Sys2Proof.Machine
end

