-- ==== Sys2Proof/Machine/Dispatch.lean ====
section
/-! DEFINITION. Which meaning each command has: one arm per constructor of `Instr`. A meaning that takes no argument is of
a command whose `arg` is ignored (R65). -/

namespace Sys2Proof.Machine

def exec (i : Instr) (s : State) : Host.Outcome State Fault Refusal :=
  match i with
  | .init seed => Sys2Proof.Machine.execInit seed s
  | .nextDouble _ => Sys2Proof.Machine.execNextDouble s
  | .nextFloat _ => Sys2Proof.Machine.execNextFloat s
  | .nextInt _ => Sys2Proof.Machine.execNextInt s
  | .nextIntBound _ bound => Sys2Proof.Machine.execNextIntBound bound s
  | .nextLong _ => Sys2Proof.Machine.execNextLong s
  | .nextBoolean _ => Sys2Proof.Machine.execNextBoolean s
  | .nextBytes _ => Sys2Proof.Machine.execNextBytes s
  | .nextGaussian _ => Sys2Proof.Machine.execNextGaussian s
  | .setSeed _ => Sys2Proof.Machine.execSetSeed s
  | .nextRaw _ => Sys2Proof.Machine.execNextRaw s
  | .reserved0 _ => Sys2Proof.Machine.execReserved0 s
  | .reservedC _ => Sys2Proof.Machine.execReservedC s
  | .reservedD _ => Sys2Proof.Machine.execReservedD s
  | .reservedE _ => Sys2Proof.Machine.execReservedE s
  | .reservedF _ => Sys2Proof.Machine.execReservedF s

end Sys2Proof.Machine
end

