-- ==== Sys2Proof/Machine/Step.lean ====
section
/-! DEFINITION. One step of the machine: take the host's oldest event. A command is decoded and executed as one
indivisible transition (R61, R170); reset has the effect of R165, between commands as R166 allows (log 4); with nothing
presented the block "is idle with its state held" (R160; log 3). -/

namespace Sys2Proof.Machine

def step (s : State) : Host.Outcome State Fault Refusal :=
  match s.host with
  | [] => .next s
  | .reset :: rest => .next (applyReset (s.withHost rest))
  | .command w :: rest => exec (decode w) (s.withHost rest)

/-- The host presents the command whose bits are `w` next, ahead of whatever it already presents (log 1). -/
def State.withFetchWord (s : State) (_nbits w : Nat) : State :=
  s.withHost (.command (BitVec.ofNat 68 w) :: s.host)

end Sys2Proof.Machine
end

