-- ==== Sys2Proof/Machine/Transaction.lean ====
section
/-! DEFINITION. The reference form of the block: the total function `Step : State × Command -> State × Response` of R66,
its tests on the raw command word in the normative order, over any configuration. `step` runs the commands through
`decode` and `exec`; that the two agree is stated in Sys2Proof/Certificates/Slice0/Obligations.lean. -/

namespace Sys2Proof.Machine

/-- The response to an error (R141). -/
def errorResponse (e : ErrorKind) : Response := ⟨e.status, 0#64⟩

/-- `Format(op, y, arg)` for the six draw opcodes (step 7 of R66, R69). -/
def formatFor (op : BitVec 4) (y arg : Word) : Word :=
  if op = 0x2#4 then formatDouble y
  else if op = 0x3#4 then formatFloat y
  else if op = 0x4#4 then formatInt y
  else if op = 0x5#4 then formatBounded (boundOfArg arg) y
  else formatWhole y

/-- `Step(S, cmd)` (R66). -/
def transact (c : Config) (e : Engine) (cmd : Command) : Engine × Response :=
  let op := opField cmd
  let arg := argField cmd
  if op ∈ [0x0#4, 0xC#4, 0xD#4, 0xE#4, 0xF#4] then (e, errorResponse .illegalOp)
  else if op ∈ [0x7#4, 0x8#4, 0x9#4] then (e, errorResponse .unsupported)
  else if op = 0xA#4 then (e, ⟨.ok, 0#64⟩)
  else if op = 0x1#4 then
    if e.isSeeded then (e, errorResponse .stateError) else (seedEngine (seedOperand arg), ⟨.ok, 0#64⟩)
  else
    match e with
    | .unseeded => (e, errorResponse .stateError)
    | .seeded mt mti =>
      if op = 0x5#4 ∧ boundOfArg arg ≤ 0 then (e, errorResponse .invalidArgument)
      else
        let d := draw c mt mti
        (.seeded d.mt d.mti, ⟨.ok, formatFor op d.word arg⟩)

end Sys2Proof.Machine
end

