-- ==== Sys2Proof/Safety.lean ====
section
/-! DEFINITION. What claims about runs speak of: the invariant of the states between commands, when a command succeeds,
which bits of a command word matter, and what the host sees of a sequence of commands. -/

namespace Sys2Proof.Machine

/-- What holds of the machine between commands: once seeded "the cursor is therefore never 0" (R25), and a response that
is not `OK` carries `data = 0` (R62). -/
def State.Inv (s : State) : Prop :=
  (∀ mti, s.mti? = some mti → 1 ≤ mti.val) ∧
  (∀ r, s.rsp = some r → r.status ≠ .ok → r.data = 0#64)

/-- Whether the lifecycle table of R167 lists a command among those that succeed in a state (R145). -/
def succeedsIn (i : Instr) (s : State) : Bool :=
  match i with
  | .init _ => !s.seeded
  | .nextDouble _ => s.seeded
  | .nextFloat _ => s.seeded
  | .nextInt _ => s.seeded
  | .nextIntBound _ bound => s.seeded && decide (1 ≤ bound.toInt)
  | .nextLong _ => s.seeded
  | .nextBoolean _ => false
  | .nextBytes _ => false
  | .nextGaussian _ => false
  | .setSeed _ => true
  | .nextRaw _ => s.seeded
  | .reserved0 _ => false
  | .reservedC _ => false
  | .reservedD _ => false
  | .reservedE _ => false
  | .reservedF _ => false

/-- Whether a command is one of the six draw commands (R64). -/
def isDraw (i : Instr) : Bool :=
  i.opcode ∈ [0x2#4, 0x3#4, 0x4#4, 0x5#4, 0x6#4, 0xB#4]

/-- Whether a command is one of the four of spec/44_unsupported_and_setseed.md (R134). -/
def isSystem (i : Instr) : Bool :=
  i.opcode ∈ [0x7#4, 0x8#4, 0x9#4, 0xA#4]

/-- Whether two command words differ only in bits their opcode ignores (R65). -/
def sameRelevantBits (w w' : Command) : Bool :=
  opField w == opField w' &&
  (if opField w == 0x1#4 then argField w == argField w'
   else if opField w == 0x5#4 then (argField w).extractLsb' 0 32 == (argField w').extractLsb' 0 32
   else true)

/-- `k` steps of the machine, stopping at the first fault or refusal: `Host.Core.run` for this machine. -/
def steps : Nat → State → Result
  | 0, s => .next s
  | k + 1, s =>
    match step s with
    | .next t => steps k t
    | .fault r => .fault r
    | .refused r => .refused r

/-- The machine with exactly the command `w` presented. -/
def State.offer (s : State) (w : Command) : State := s.withHost [.command w]

/-- The responses the host sees when it presents the commands `ws` one at a time, each as the only pending event (R61).
A stopped machine answers nothing more. -/
def transcript : List Command → State → List Response
  | [], _ => []
  | w :: ws, s =>
    match step (s.offer w) with
    | .next t => t.rsp.toList ++ transcript ws t
    | .fault _ => []
    | .refused _ => []

end Sys2Proof.Machine
end

