-- ==== Sys2Proof/Certificates/Slice0/Obligations.lean ====
section
/-! DEFINITION. The statements about the model, each with the rule of spec/ it formalises. In all of them a response is the
field `rsp` and the events the host presents are the field `host` (log 1, log 2). -/

open Sys2Proof Sys2Proof.Machine

/-! ### Reset and the step -/

/-- R34: after reset `seeded = 0`, and `mt` and `mti` hold no value. -/
def Obligations.ResetLeavesTheBlockUnseeded : Prop :=
  State.reset.seeded = false ∧ State.reset.mt? = none ∧ State.reset.mti? = none

/-- R165: the reset event takes the machine, whatever its state, to `seeded = 0` with `mt` and `mti` holding no value,
which is also the state at power-on, ready for the next event; and no other event takes `seeded` from 1 to 0. -/
def Obligations.ResetIsTheOnlyWayToUnseed : Prop :=
  (∀ (s : State) (rest : List HostEvent), s.host = .reset :: rest →
    ∃ t, step s = .next t ∧ t.seeded = false ∧ t.mt? = none ∧ t.mti? = none ∧
      t.engine = State.reset.engine ∧ t.host = rest) ∧
  (∀ s t : State, step s = .next t → s.seeded = true → t.seeded = false →
    ∃ rest, s.host = .reset :: rest)

/-- The step runs the command the host presents next (R60, R61, R66); that it stands at the head of `State.host`, and is
taken from it, is the model's choice (log 1). -/
def Obligations.StepRunsTheDecodedCommand : Prop :=
  ∀ (s : State) (w : Command) (rest : List HostEvent), s.host = .command w :: rest →
    step s = exec (decode w) { s with host := rest }

/-- With nothing presented the block "is idle with its state held" (R160); that a step may find nothing presented is the
model's choice (log 3). -/
def Obligations.StepWithNothingPresentedHoldsTheState : Prop :=
  ∀ s : State, s.host = [] → step s = .next s

/-- A word presented through `withFetchWord` is the next command a step runs (the model's own loading, log 1). -/
def Obligations.FetchWordIsRunNext : Prop :=
  ∀ (s : State) (nbits w : Nat) (i : Instr), decodeTableWord nbits w = some i →
    step (s.withFetchWord nbits w) = exec i s

/-! ### Encoding -/

/-- Five words written out bit by bit from the `encoding` column decode to the commands they stand for. -/
def Obligations.WrittenCommandWordsDecode : Prop :=
  decode 0b00010000000000000000000000000000000000000000000000000001010101110001#68 = .init 5489#64 ∧
  decode 0b01010000000000000000000000000000000000000000000000000000000001100100#68 = .nextIntBound 0#32 100#32 ∧
  decode 0b10100000000000000000000000000000000000000000000000000000000000101010#68 = .setSeed 42#64 ∧
  decode 0b10110000000000000000000000000000000000000000000000000000000000000000#68 = .nextRaw 0#64 ∧
  decode 0b11110000000000000000000000000000000000000000000000000000000000000000#68 = .reservedF 0#64

/-- R64, with the reserved values of R67: what each of the sixteen opcodes stands for, whatever the argument; a bound is
the low half of the argument (R65). -/
def Obligations.OpcodeMapDecodes : Prop :=
  ∀ arg : Word,
    decode (0x0#4 ++ arg) = .reserved0 arg ∧ decode (0x1#4 ++ arg) = .init arg ∧
    decode (0x2#4 ++ arg) = .nextDouble arg ∧ decode (0x3#4 ++ arg) = .nextFloat arg ∧
    decode (0x4#4 ++ arg) = .nextInt arg ∧
    decode (0x5#4 ++ arg) = .nextIntBound (arg.extractLsb' 32 32) (arg.extractLsb' 0 32) ∧
    decode (0x6#4 ++ arg) = .nextLong arg ∧ decode (0x7#4 ++ arg) = .nextBoolean arg ∧
    decode (0x8#4 ++ arg) = .nextBytes arg ∧ decode (0x9#4 ++ arg) = .nextGaussian arg ∧
    decode (0xA#4 ++ arg) = .setSeed arg ∧ decode (0xB#4 ++ arg) = .nextRaw arg ∧
    decode (0xC#4 ++ arg) = .reservedC arg ∧ decode (0xD#4 ++ arg) = .reservedD arg ∧
    decode (0xE#4 ++ arg) = .reservedE arg ∧ decode (0xF#4 ++ arg) = .reservedF arg

/-- Decoding and encoding are inverse on all commands and on all 68-bit words (R60, R68): no bit of a word is lost, the
ignored ones included (kept by the model's choice, log 8). -/
def Obligations.DecodeAndEncodeAreInverse : Prop :=
  (∀ i : Instr, decode (encode i) = i) ∧ (∀ w : Command, encode (decode w) = w)

/-- A number with a bit above bit 67 is no command word (R60, R68: the one length is 68 bits; log 9), and every other one
is. -/
def Obligations.OnlyCommandWordsDecode : Prop :=
  ∀ nbits w : Nat, (decodeTableWord nbits w).isSome = true ↔ w < 2 ^ 68

/-- R65: `INIT` takes all 64 bits of `arg`, `NEXT_INT_BOUND` the signed reading of the low 32, and no ignored bit
influences the new state or the response. -/
def Obligations.IgnoredArgumentBitsHaveNoEffect : Prop :=
  (∀ w : Command, opField w = 0x1#4 → decode w = .init (argField w)) ∧
  (∀ w : Command, opField w = 0x5#4 → ∃ ignored bound, decode w = .nextIntBound ignored bound ∧
    boundOperand bound = ((argField w).extractLsb' 0 32).toInt) ∧
  (∀ (w w' : Command) (s : State), sameRelevantBits w w' = true → exec (decode w) s = exec (decode w') s)

/-- R62 and R63: the response word carries the status code in bits 66 to 64 and the data in bits 63 to 0, and the codes 5,
6 and 7 are never produced. -/
def Obligations.ResponseWordHoldsStatusAndData : Prop :=
  (∀ r : Response, r.toWord.extractLsb' 64 3 = r.status.code ∧ r.toWord.extractLsb' 0 64 = r.data) ∧
  Status.code .ok = 0#3 ∧ Status.code .errUnsupported = 1#3 ∧ Status.code .errInvalidArg = 2#3 ∧
  Status.code .errIllegalOp = 3#3 ∧ Status.code .errState = 4#3 ∧
  (∀ st : Status, st.code ≠ 5#3 ∧ st.code ≠ 6#3 ∧ st.code ≠ 7#3)

/-- The textual form (R70): a seed literal becomes its 64-bit pattern, two's complement when negative; a decimal bound is
read back as itself. The range of a decimal seed is the model's reading (log 15). -/
def Obligations.AssembledLiteralsAreTwosComplement : Prop :=
  (∀ l : Literal, l.fits64 = true → ∃ seed, assemble (.init l) = .init seed ∧ (seed.toNat : Int) = l.value % 2 ^ 64) ∧
  (∀ v : Int, Literal.fitsBound (.dec v) = true →
    ∃ bound, assemble (.nextIntBound (.dec v)) = .nextIntBound 0#32 bound ∧ boundOperand bound = v)

/-! ### The whole machine -/

/-- R66: on every command word and in every state, decoding and executing is the total function `Step` of the rule, with
its tests in the normative order; the events still to come are untouched. -/
def Obligations.MachineRefinesTheTotalStepFunction : Prop :=
  ∀ (s : State) (w : Command),
    exec (decode w) s = .next
      { engine := (transact Config.hardware s.engine w).1,
        host := s.host,
        rsp := some (transact Config.hardware s.engine w).2 }

/-- R145 and the lifecycle table of R167: every command is answered, with `OK` exactly when the table lists it among those
that succeed in the state, and `seeded` becomes 1 by `INIT` and otherwise stays. -/
def Obligations.EveryCommandIsAnsweredByTheLifecycleTable : Prop :=
  ∀ (i : Instr) (s : State), ∃ t r,
    exec i s = .next t ∧ t.rsp = some r ∧ t.host = s.host ∧
    (r.status = .ok ↔ succeedsIn i s = true) ∧
    t.seeded = (s.seeded || decide (i.opcode = 0x1#4))

/-- R141: a command that ends in an error changes no state, and its response is the status with `data = 0`. -/
def Obligations.ErrorsChangeNothing : Prop :=
  ∀ (i : Instr) (s t : State) (r : Response), exec i s = .next t → t.rsp = some r → r.status ≠ .ok →
    t = { s with rsp := some ⟨r.status, 0#64⟩ }

/-- R107: only `INIT` on an UNSEEDED block and a draw command answered `OK` change `mt` or `mti`. -/
def Obligations.OnlyInitAndDrawsChangeTheBlock : Prop :=
  ∀ (i : Instr) (s t : State), exec i s = .next t → t.engine ≠ s.engine →
    (∃ seed, i = .init seed ∧ s.seeded = false) ∨
    (isDraw i = true ∧ s.seeded = true ∧ ∃ d, t.rsp = some ⟨.ok, d⟩)

/-- Every step keeps the invariant: a seeded block's cursor is never 0 between commands (R25), and a response that is not
`OK` carries no data (R62). -/
def Obligations.StepKeepsTheCursorOffZero : Prop :=
  ∀ s t : State, s.Inv → step s = .next t → t.Inv

/-- The machine after reset meets the invariant. -/
def Obligations.ResetMeetsTheCursorInvariant : Prop := State.reset.Inv

/-! ### Seeding -/

/-- R81: the seeding step, and its corner cases: a zero word gives the index, and below 2^62 nothing is mixed in. -/
def Obligations.SeedStepIsTheRecurrence : Prop :=
  (∀ (prev : Word) (i : Nat),
    seedStep prev i = 6364136223846793005#64 * (prev ^^^ (prev >>> 62)) + BitVec.ofNat 64 i) ∧
  (∀ i : Nat, seedStep 0#64 i = BitVec.ofNat 64 i) ∧
  (∀ (prev : Word) (i : Nat), prev.toNat < 2 ^ 62 →
    seedStep prev i = 6364136223846793005#64 * prev + BitVec.ofNat 64 i)

/-- R82: `INIT` on an UNSEEDED block answers `OK 0`, sets the cursor to 312 and fills the vector: word 0 is the seed and
each further word is `SeedStep` of the one before it; on a SEEDED block it is refused. -/
def Obligations.InitSeedsTheWholeVector : Prop :=
  ∀ (seed : Word) (s : State),
    encode (.init seed) = 0x1#4 ++ seed ∧
    (s.engine = .unseeded → ∃ mt : StateVector,
      exec (.init seed) s = .next
        { engine := .seeded mt ⟨312, by decide⟩, host := s.host, rsp := some ⟨.ok, 0#64⟩ } ∧
      mt[0] = seed ∧
      ∀ (i : Nat) (h : i + 1 < 312),
        mt[i + 1] = 6364136223846793005#64 * (mt[i] ^^^ (mt[i] >>> 62)) + BitVec.ofNat 64 (i + 1)) ∧
    (s.seeded = true → exec (.init seed) s = .next { s with rsp := some ⟨.errState, 0#64⟩ })

/-- R84: `INIT` in the SEEDED state changes no state and answers `ERR_STATE` with data 0, whatever the seed. -/
def Obligations.InitIsRefusedOnceSeeded : Prop :=
  ∀ (seed : Word) (s : State) (mt : StateVector) (mti : Cursor), s.engine = .seeded mt mti →
    exec (.init seed) s = .next { s with rsp := some ⟨.errState, 0#64⟩ }

/-- After a reset and `INIT` nothing of the machine's past is left: two machines in any two states come to the same state,
a function of the seed alone (R35, R80, R85, R165; the spec marks R85 as derived). -/
def Obligations.ResetAndInitForgetThePast : Prop :=
  ∀ (seed : Word) (s₁ s₂ : State), ∃ t,
    steps 2 (s₁.withHost [.reset, .command (encode (.init seed))]) = .next t ∧
    steps 2 (s₂.withHost [.reset, .command (encode (.init seed))]) = .next t ∧
    t.seeded = true

/-- Generation 0 is never all zero, whatever the seed (corner case of R92, which the spec marks as derived). -/
def Obligations.InitNeverLeavesTheZeroVector : Prop :=
  ∀ (seed : Word) (s t : State) (mt : StateVector), s.engine = .unseeded → exec (.init seed) s = .next t →
    t.mt? = some mt → mt ≠ Vector.replicate N 0#64

/-! ### The twist -/

/-- R91: the twist's word function under any configuration whose `UM` leaves bit 0 to `LM`; the conditional XOR is decided
by the least significant bit of the next word alone, and the unselected bits of `cur` and `nxt` do not influence it. -/
def Obligations.TwistWordMixesThreeWords : Prop :=
  ∀ c : Config, c.um.getLsbD 0 = false →
    (∀ cur nxt mid : Word,
      twistWord c cur nxt mid =
        mid ^^^ ((((cur &&& c.um) ||| (nxt &&& ~~~c.um)) >>> 1) ^^^ (if nxt.getLsbD 0 then c.a else 0#64))) ∧
    (∀ cur cur' nxt nxt' mid : Word, cur &&& c.um = cur' &&& c.um → nxt &&& ~~~c.um = nxt' &&& ~~~c.um →
      twistWord c cur nxt mid = twistWord c cur' nxt' mid) ∧
    twistWord c 0#64 0#64 0#64 = 0#64 ∧ twistWord c 0#64 1#64 0#64 = c.a

/-- R93: which words each iteration of the twist reads from the old generation and which from the new one, under any
configuration. -/
def Obligations.TwistRegeneratesInPlace : Prop :=
  ∀ (c : Config) (mt : StateVector),
    (∀ (i : Nat) (h : i ≤ 155), (twistVector c mt)[i] = twistWord c mt[i] mt[i + 1] mt[i + 156]) ∧
    (∀ (i : Nat) (h : i + 156 ≤ 310),
      (twistVector c mt)[i + 156] = twistWord c mt[i + 156] mt[i + 157] (twistVector c mt)[i]) ∧
    (twistVector c mt)[311] = twistWord c mt[311] (twistVector c mt)[0] (twistVector c mt)[155]

/-- An all-zero vector is a fixed point of the twist (corner case of R92). -/
def Obligations.TwistKeepsTheZeroVector : Prop :=
  ∀ c : Config, twistVector c (Vector.replicate N 0#64) = Vector.replicate N 0#64

/-! ### Tempering -/

/-- R101: the four stages, each on the value entering it, with the corner cases of the rule. -/
def Obligations.TemperAppliesFourStages : Prop :=
  ∀ c : Config,
    (∀ y y1 y2 y3 y4 : Word,
      y1 = y ^^^ ((y >>> 29) &&& c.tB) → y2 = y1 ^^^ ((y1 <<< 17) &&& c.tC) →
      y3 = y2 ^^^ ((y2 <<< 37) &&& c.tD) → y4 = y3 ^^^ (y3 >>> 43) → temper c y = y4) ∧
    temper c 0#64 = 0#64 ∧
    (∀ (y : Word) (i : Nat), 35 ≤ i → (temper1 c y).getLsbD i = y.getLsbD i) ∧
    (∀ (y : Word) (i : Nat), 21 ≤ i → (temper4 y).getLsbD i = y.getLsbD i)

/-- `Temper` is a bijection and linear over XOR, for any mask values (R105, which the spec marks as derived). -/
def Obligations.TemperIsALinearBijection : Prop :=
  ∀ c : Config, Function.Bijective (temper c) ∧
    ∀ a b : Word, temper c (a ^^^ b) = temper c a ^^^ temper c b

/-! ### The draw commands -/

/-- R102 and R104: `NEXT_RAW` on a SEEDED block serves the tempered word at the cursor and increments it; at the end of a
generation it twists first and serves word 0; UNSEEDED it is refused. -/
def Obligations.NextRawServesTheNextWord : Prop :=
  ∀ (arg : Word) (s : State),
    encode (.nextRaw arg) = 0xB#4 ++ arg ∧
    (s.engine = .unseeded → exec (.nextRaw arg) s = .next { s with rsp := some ⟨.errState, 0#64⟩ }) ∧
    (∀ (mt : StateVector) (i : Nat) (h : i < N), s.engine = .seeded mt ⟨i, Nat.lt_succ_of_lt h⟩ →
      exec (.nextRaw arg) s = .next
        { engine := .seeded mt ⟨i + 1, Nat.succ_lt_succ h⟩, host := s.host,
          rsp := some ⟨.ok, temper Config.hardware mt[i]⟩ }) ∧
    (∀ mt : StateVector, s.engine = .seeded mt ⟨312, by decide⟩ →
      exec (.nextRaw arg) s = .next
        { engine := .seeded (twistVector Config.hardware mt) ⟨1, by decide⟩, host := s.host,
          rsp := some ⟨.ok, temper Config.hardware (twistVector Config.hardware mt)[0]⟩ })

/-- R116: `NEXT_LONG` makes one draw and answers all its 64 bits; UNSEEDED it is refused; in data and in effect it is
`NEXT_RAW`. -/
def Obligations.NextLongAnswersTheWholeDraw : Prop :=
  ∀ (arg : Word) (s : State),
    encode (.nextLong arg) = 0x6#4 ++ arg ∧
    (s.engine = .unseeded → exec (.nextLong arg) s = .next { s with rsp := some ⟨.errState, 0#64⟩ }) ∧
    (∀ (mt : StateVector) (mti : Cursor), s.engine = .seeded mt mti →
      exec (.nextLong arg) s = .next
        { engine := .seeded (draw Config.hardware mt mti).mt (draw Config.hardware mt mti).mti, host := s.host,
          rsp := some ⟨.ok, (draw Config.hardware mt mti).word⟩ }) ∧
    (∀ arg' : Word, exec (.nextLong arg) s = exec (.nextRaw arg') s)

/-- R117: `NEXT_DOUBLE` makes one draw `y` and answers the binary64 encoding of exactly `k / 2^53`, `k` the 53 high bits
of `y`: sign 0, and for `k = 0` all bits 0, else a biased exponent `e` and a fraction `f` with
`(2^52 + f) * 2^(e - 1075) = k / 2^53`. UNSEEDED it is refused. -/
def Obligations.NextDoubleIsExact : Prop :=
  ∀ (arg : Word) (s : State),
    encode (.nextDouble arg) = 0x2#4 ++ arg ∧
    (s.engine = .unseeded → exec (.nextDouble arg) s = .next { s with rsp := some ⟨.errState, 0#64⟩ }) ∧
    (∀ (mt : StateVector) (mti : Cursor), s.engine = .seeded mt mti → ∃ r : Word,
      exec (.nextDouble arg) s = .next
        { engine := .seeded (draw Config.hardware mt mti).mt (draw Config.hardware mt mti).mti, host := s.host,
          rsp := some ⟨.ok, r⟩ } ∧
      (let k := (draw Config.hardware mt mti).word.toNat / 2 ^ 11
       let e := (r.extractLsb' 52 11).toNat
       let f := (r.extractLsb' 0 52).toNat
       r.getLsbD 63 = false ∧ (k = 0 → r = 0#64) ∧
       (k ≠ 0 → 970 ≤ e ∧ e ≤ 1022 ∧ (2 ^ 52 + f) * 2 ^ e = k * 2 ^ 1022)))

/-- R119: `NEXT_FLOAT` makes one draw `y` and answers, in the low 32 bits, the binary32 encoding of exactly `k / 2^24`,
`k` the 24 high bits of `y`; the high 32 bits are 0. UNSEEDED it is refused. -/
def Obligations.NextFloatIsExact : Prop :=
  ∀ (arg : Word) (s : State),
    encode (.nextFloat arg) = 0x3#4 ++ arg ∧
    (s.engine = .unseeded → exec (.nextFloat arg) s = .next { s with rsp := some ⟨.errState, 0#64⟩ }) ∧
    (∀ (mt : StateVector) (mti : Cursor), s.engine = .seeded mt mti → ∃ r : Word,
      exec (.nextFloat arg) s = .next
        { engine := .seeded (draw Config.hardware mt mti).mt (draw Config.hardware mt mti).mti, host := s.host,
          rsp := some ⟨.ok, r⟩ } ∧
      (let k := (draw Config.hardware mt mti).word.toNat / 2 ^ 40
       let e := (r.extractLsb' 23 8).toNat
       let f := (r.extractLsb' 0 23).toNat
       r.extractLsb' 32 32 = 0#32 ∧ r.getLsbD 31 = false ∧ (k = 0 → r = 0#64) ∧
       (k ≠ 0 → 103 ≤ e ∧ e ≤ 126 ∧ (2 ^ 23 + f) * 2 ^ e = k * 2 ^ 126)))

/-- R120: `NEXT_INT` makes one draw `y` and answers its low 32 bits read as signed, sign-extended to 64 bits. UNSEEDED it
is refused. -/
def Obligations.NextIntIsTheLowHalfSigned : Prop :=
  ∀ (arg : Word) (s : State),
    encode (.nextInt arg) = 0x4#4 ++ arg ∧
    (s.engine = .unseeded → exec (.nextInt arg) s = .next { s with rsp := some ⟨.errState, 0#64⟩ }) ∧
    (∀ (mt : StateVector) (mti : Cursor), s.engine = .seeded mt mti → ∃ r : Word,
      exec (.nextInt arg) s = .next
        { engine := .seeded (draw Config.hardware mt mti).mt (draw Config.hardware mt mti).mti, host := s.host,
          rsp := some ⟨.ok, r⟩ } ∧
      r.extractLsb' 0 32 = (draw Config.hardware mt mti).word.extractLsb' 0 32 ∧
      r.toInt = ((draw Config.hardware mt mti).word.extractLsb' 0 32).toInt)

/-- R122: `NEXT_INT_BOUND` is refused while UNSEEDED, whatever the bound, then for a bound of at most 0; else it makes one
draw `y` and answers the floor of the once rounded product `bound * (k / 2^53)`, `k` the 53 high bits of `y`. -/
def Obligations.NextIntBoundFloorsTheRoundedProduct : Prop :=
  ∀ (ignored bound : BitVec 32) (s : State),
    encode (.nextIntBound ignored bound) = 0x5#4 ++ (ignored ++ bound) ∧
    (s.engine = .unseeded →
      exec (.nextIntBound ignored bound) s = .next { s with rsp := some ⟨.errState, 0#64⟩ }) ∧
    (∀ (mt : StateVector) (mti : Cursor), s.engine = .seeded mt mti →
      (bound.toInt ≤ 0 →
        exec (.nextIntBound ignored bound) s = .next { s with rsp := some ⟨.errInvalidArg, 0#64⟩ }) ∧
      (1 ≤ bound.toInt → ∃ r : Word,
        exec (.nextIntBound ignored bound) s = .next
          { engine := .seeded (draw Config.hardware mt mti).mt (draw Config.hardware mt mti).mti, host := s.host,
            rsp := some ⟨.ok, r⟩ } ∧
        r.toNat = rne53 (bound.toNat * ((draw Config.hardware mt mti).word.toNat / 2 ^ 11)) / 2 ^ 53 ∧
        (r.toNat : Int) < bound.toInt))

/-- R124: on a SEEDED block a bound whose 32 bits are 0, or whose bit 31 is 1, performs no draw, changes no state and
answers `ERR_INVALID_ARG` with data 0; an UNSEEDED block answers `ERR_STATE`. -/
def Obligations.NonPositiveBoundIsRefusedBeforeTheDraw : Prop :=
  ∀ (ignored bound : BitVec 32) (s : State), bound = 0#32 ∨ bound.getLsbD 31 = true →
    (s.seeded = true →
      exec (.nextIntBound ignored bound) s = .next { s with rsp := some ⟨.errInvalidArg, 0#64⟩ }) ∧
    (s.seeded = false →
      exec (.nextIntBound ignored bound) s = .next { s with rsp := some ⟨.errState, 0#64⟩ })

/-- R121: `RNE53` keeps a number below 2^53, and takes a number of `53 + sh` bits to a nearest multiple of `2^sh`, the even
one of two equally near. -/
def Obligations.RoundingIsNearestTiesToEven : Prop :=
  ∀ p : Nat,
    (p < 2 ^ 53 → rne53 p = p) ∧
    (∀ sh : Nat, 1 ≤ sh → 2 ^ (52 + sh) ≤ p → p < 2 ^ (53 + sh) → ∃ q : Nat,
      rne53 p = q * 2 ^ sh ∧ 2 ^ 52 ≤ q ∧ q ≤ 2 ^ 53 ∧
      2 * p ≤ 2 * rne53 p + 2 ^ sh ∧ 2 * rne53 p ≤ 2 * p + 2 ^ sh ∧
      (2 * p = 2 * rne53 p + 2 ^ sh ∨ 2 * rne53 p = 2 * p + 2 ^ sh → q % 2 = 0))

/-- The bounded result lies in [0, bound - 1] for every bound of 31 bits and every raw draw (R123, which the spec marks as
derived). -/
def Obligations.BoundedResultsStayBelowTheBound : Prop :=
  ∀ (bound : Nat) (y : Word), 1 ≤ bound → bound ≤ 2 ^ 31 - 1 → boundedInt bound y ≤ bound - 1

/-- R106: each of the six draw commands in the UNSEEDED state changes no state and answers `ERR_STATE` with data 0, a
`NEXT_INT_BOUND` whatever its bound. -/
def Obligations.DrawCommandsAreRefusedWhileUnseeded : Prop :=
  ∀ (i : Instr) (s : State), isDraw i = true → s.seeded = false →
    exec i s = .next { s with rsp := some ⟨.errState, 0#64⟩ }

/-- The draws after seeding: after `j` successful draw commands the cursor is `(j - 1) mod N + 1` in generation
`ceil(j / N)`, and a `NEXT_RAW` among them that is the last answers the tempered word `(j - 1) mod N` of that generation
(R33, R103, which the spec marks as derived). -/
def Obligations.DrawsServeTheGenerationsInOrder : Prop :=
  ∀ (s : State) (mt : StateVector) (cmds : List Command),
    s.engine = .seeded mt ⟨312, by decide⟩ → s.host = cmds.map HostEvent.command → cmds ≠ [] →
    (∀ w ∈ cmds, isDraw (decode w) = true ∧ succeedsIn (decode w) s = true) →
    ∃ t mti,
      steps cmds.length s = .next t ∧ t.host = [] ∧
      t.engine = .seeded ((twistVector Config.hardware)^[(cmds.length + 311) / 312] mt) mti ∧
      mti.val = (cmds.length - 1) % 312 + 1 ∧
      (∀ w arg, cmds.getLast? = some w → decode w = .nextRaw arg →
        t.rsp = some ⟨.ok, temper Config.hardware
          (readWord ((twistVector Config.hardware)^[(cmds.length + 311) / 312] mt) (wrap (cmds.length - 1)))⟩)

/-! ### The system and reserved commands -/

/-- R130, R131, R132: the three unsupported operations change no state and answer `ERR_UNSUPPORTED` with data 0, in every
state and whatever the argument. -/
def Obligations.UnsupportedCommandsAlwaysFail : Prop :=
  ∀ (arg : Word) (s : State),
    encode (.nextBoolean arg) = 0x7#4 ++ arg ∧ encode (.nextBytes arg) = 0x8#4 ++ arg ∧
    encode (.nextGaussian arg) = 0x9#4 ++ arg ∧
    exec (.nextBoolean arg) s = .next { s with rsp := some ⟨.errUnsupported, 0#64⟩ } ∧
    exec (.nextBytes arg) s = .next { s with rsp := some ⟨.errUnsupported, 0#64⟩ } ∧
    exec (.nextGaussian arg) s = .next { s with rsp := some ⟨.errUnsupported, 0#64⟩ }

/-- R133: `SET_SEED` answers `OK 0` and changes nothing, in every state and whatever the value. -/
def Obligations.SetSeedIsANoOp : Prop :=
  ∀ (value : Word) (s : State),
    encode (.setSeed value) = 0xA#4 ++ value ∧
    exec (.setSeed value) s = .next { s with rsp := some ⟨.ok, 0#64⟩ }

/-- Inserting one of the four system commands anywhere in a command sequence changes no other response of the sequence
(R134, which the spec marks as derived). -/
def Obligations.SystemCommandsLeaveTheStreamAlone : Prop :=
  ∀ (s : State) (w : Command) (earlier later : List Command), isSystem (decode w) = true → ∃ r,
    transcript (earlier ++ w :: later) s =
      (transcript (earlier ++ later) s).take earlier.length ++
        r :: (transcript (earlier ++ later) s).drop earlier.length

/-- R67: each of the five reserved opcodes changes no state and answers `ERR_ILLEGAL_OP` with data 0, whatever the
argument and in every state. -/
def Obligations.ReservedOpcodesAreIllegal : Prop :=
  ∀ (arg : Word) (s : State),
    encode (.reserved0 arg) = 0x0#4 ++ arg ∧ encode (.reservedC arg) = 0xC#4 ++ arg ∧
    encode (.reservedD arg) = 0xD#4 ++ arg ∧ encode (.reservedE arg) = 0xE#4 ++ arg ∧
    encode (.reservedF arg) = 0xF#4 ++ arg ∧
    exec (.reserved0 arg) s = .next { s with rsp := some ⟨.errIllegalOp, 0#64⟩ } ∧
    exec (.reservedC arg) s = .next { s with rsp := some ⟨.errIllegalOp, 0#64⟩ } ∧
    exec (.reservedD arg) s = .next { s with rsp := some ⟨.errIllegalOp, 0#64⟩ } ∧
    exec (.reservedE arg) s = .next { s with rsp := some ⟨.errIllegalOp, 0#64⟩ } ∧
    exec (.reservedF arg) s = .next { s with rsp := some ⟨.errIllegalOp, 0#64⟩ }
end

