-- ==== Sys2Proof/Laws/Codec.lean ====
section
/-! SUPPORT. The two fields of a command word (R60). -/

namespace Sys2Proof

/-- The argument field of a word put together from an opcode and an argument is that argument. -/
@[simp] theorem argField_append (op : BitVec 4) (arg : Word) : argField (op ++ arg) = arg :=
  BitVec.extractLsb'_append_eq_right

/-- The opcode field of a word put together from an opcode and an argument is that opcode. -/
@[simp] theorem opField_append (op : BitVec 4) (arg : Word) : opField (op ++ arg) = op :=
  BitVec.extractLsb'_append_eq_left

/-- A command word is its two fields and nothing else. -/
theorem append_fields (w : Command) : (opField w ++ argField w : BitVec (4 + 64)) = w := by
  ext i hi
  simp only [BitVec.getElem_append, opField, argField, BitVec.getElem_extractLsb']
  split
  · simp [BitVec.getLsbD_eq_getElem hi]
  · rw [show 64 + (i - 64) = i by omega, BitVec.getLsbD_eq_getElem hi]

/-- Decoding a word put together from an opcode and an argument. -/
theorem decode_append (op : BitVec 4) (arg : Word) : decode (op ++ arg) = commandOf op arg := by
  rw [decode, opField_append, argField_append]

@[simp] theorem opField_encode (i : Instr) : opField (encode i) = i.opcode := opField_append _ _
@[simp] theorem argField_encode (i : Instr) : argField (encode i) = i.argBits := argField_append _ _

end Sys2Proof
end

