-- ==== Sys2Proof/Laws/State.lean ====
section
/-! SUPPORT. What each update of the state does to each field and to each view of it. -/

namespace Sys2Proof.Machine.State

@[simp] theorem withEngine_engine (s : State) (e : Engine) : (s.withEngine e).engine = e := rfl
@[simp] theorem withEngine_host (s : State) (e : Engine) : (s.withEngine e).host = s.host := rfl
@[simp] theorem withEngine_rsp (s : State) (e : Engine) : (s.withEngine e).rsp = s.rsp := rfl

@[simp] theorem withHost_engine (s : State) (h : List HostEvent) : (s.withHost h).engine = s.engine := rfl
@[simp] theorem withHost_host (s : State) (h : List HostEvent) : (s.withHost h).host = h := rfl
@[simp] theorem withHost_rsp (s : State) (h : List HostEvent) : (s.withHost h).rsp = s.rsp := rfl

@[simp] theorem withRsp_engine (s : State) (r : Option Response) : (s.withRsp r).engine = s.engine := rfl
@[simp] theorem withRsp_host (s : State) (r : Option Response) : (s.withRsp r).host = s.host := rfl
@[simp] theorem withRsp_rsp (s : State) (r : Option Response) : (s.withRsp r).rsp = r := rfl

@[simp] theorem withRsp_withRsp (s : State) (r r' : Option Response) :
    (s.withRsp r).withRsp r' = s.withRsp r' := rfl
@[simp] theorem withEngine_self (s : State) : s.withEngine s.engine = s := rfl

theorem withEngine_of_eq (s : State) {e : Engine} (h : s.engine = e) : s.withEngine e = s := h ▸ rfl

@[simp] theorem mt?_unseeded (s : State) : (s.withEngine .unseeded).mt? = none := rfl
@[simp] theorem mti?_unseeded (s : State) : (s.withEngine .unseeded).mti? = none := rfl
@[simp] theorem mt?_seeded (s : State) (mt : StateVector) (mti : Cursor) :
    (s.withEngine (.seeded mt mti)).mt? = some mt := rfl
@[simp] theorem mti?_seeded (s : State) (mt : StateVector) (mti : Cursor) :
    (s.withEngine (.seeded mt mti)).mti? = some mti := rfl
@[simp] theorem mt?_withRsp (s : State) (r : Option Response) : (s.withRsp r).mt? = s.mt? := rfl
@[simp] theorem mti?_withRsp (s : State) (r : Option Response) : (s.withRsp r).mti? = s.mti? := rfl
@[simp] theorem mt?_withHost (s : State) (h : List HostEvent) : (s.withHost h).mt? = s.mt? := rfl
@[simp] theorem mti?_withHost (s : State) (h : List HostEvent) : (s.withHost h).mti? = s.mti? := rfl

@[simp] theorem seeded_withRsp (s : State) (r : Option Response) : (s.withRsp r).seeded = s.seeded := rfl
@[simp] theorem seeded_withHost (s : State) (h : List HostEvent) : (s.withHost h).seeded = s.seeded := rfl
@[simp] theorem seeded_withEngine (s : State) (e : Engine) : (s.withEngine e).seeded = e.isSeeded := rfl

/-- The flag is 0 exactly while the block is UNSEEDED. -/
theorem seeded_eq_false_iff (s : State) : s.seeded = false ↔ s.engine = .unseeded := by
  unfold seeded
  cases s.engine <;> simp [Engine.isSeeded]

/-- While the flag is 1 the vector and the cursor hold values. -/
theorem seeded_eq_true_iff (s : State) : s.seeded = true ↔ ∃ mt mti, s.engine = .seeded mt mti := by
  unfold seeded
  cases s.engine <;> simp [Engine.isSeeded]

end Sys2Proof.Machine.State
end

