-- ==== Sys2Proof/Laws/Ops.lean ====
section
/-! SUPPORT. One law for each thing a shared operation can do, to be cited where the operation is used. -/

namespace Sys2Proof.Machine

/-! ### Reads and writes of the state vector -/

@[simp] theorem wrap_val (i : Nat) : (wrap i).val = i % N := rfl

/-- A write is seen by a later read of the same word (R43). -/
@[simp] theorem readWord_writeWord_same (mt : StateVector) (i : Fin N) (v : Word) :
    readWord (writeWord mt i v) i = v := by
  simp [readWord, writeWord]

/-- A write leaves every other word alone. -/
theorem readWord_writeWord_of_ne (mt : StateVector) {i j : Fin N} (v : Word) (h : i ≠ j) :
    readWord (writeWord mt i v) j = readWord mt j := by
  have : i.val ≠ j.val := fun e => h (Fin.ext e)
  simp [readWord, writeWord, Vector.getElem_set_ne, this]

/-- Two vectors with the same words are the same vector. -/
theorem stateVector_ext {v w : StateVector} (h : ∀ i, readWord v i = readWord w i) : v = w :=
  Vector.ext fun i hi => h ⟨i, hi⟩

/-! ### Seeding -/

theorem seedWords_getElem_zero (count i : Nat) (prev : Word) (h : 0 < (seedWords count i prev).length) :
    (seedWords count i prev)[0] = seedStep prev i := by
  cases count with
  | zero => simp [seedWords] at h
  | succ count => rfl

/-- Each word of the seeding loop is `SeedStep` of the one before it. -/
theorem seedWords_getElem_succ (count i k : Nat) (prev : Word) (h : k + 1 < (seedWords count i prev).length) :
    (seedWords count i prev)[k + 1]
      = seedStep ((seedWords count i prev)[k]'(Nat.lt_of_succ_lt h)) (i + k + 1) := by
  induction count generalizing i k prev with
  | zero => simp [seedWords] at h
  | succ count ih =>
    cases k with
    | zero => simp [seedWords, seedWords_getElem_zero]
    | succ k =>
      simp only [seedWords, List.getElem_cons_succ]
      rw [ih (i + 1) k _ (by simpa [seedWords] using h)]
      congr 1
      omega

/-- Seeding leaves the seed in word 0. -/
theorem seedVector_zero (seed : Word) : readWord (seedVector seed) ⟨0, by decide⟩ = seed := rfl

/-- Seeding leaves in each further word `SeedStep` of the word before it. -/
theorem seedVector_succ (seed : Word) (i : Nat) (h : i + 1 < N) :
    readWord (seedVector seed) ⟨i + 1, h⟩
      = seedStep (readWord (seedVector seed) ⟨i, Nat.lt_of_succ_lt h⟩) (i + 1) := by
  cases i with
  | zero => simp [readWord, seedVector, seedWords_getElem_zero]
  | succ k =>
    have hk : k + 1 < (seedWords (N - 1) 1 seed).length := by
      rw [seedWords_length]
      simp only [N] at h ⊢
      omega
    have := seedWords_getElem_succ (N - 1) 1 k seed hk
    simp only [readWord, seedVector, Vector.getElem_mk, List.getElem_toArray, List.getElem_cons_succ] at this ⊢
    rw [this]
    congr 1
    omega

/-! ### The twist -/

/-- Iteration `i` writes word `i`. -/
theorem twistIter_same (c : Config) (mt : StateVector) (i : Fin N) :
    readWord (twistIter c i.val mt) i
      = twistWord c (readWord mt i) (readWord mt (nextIndex i.val)) (readWord mt (middleIndex i.val)) := by
  have : wrap i.val = i := Fin.ext (Nat.mod_eq_of_lt i.isLt)
  simp [twistIter, this]

/-- Iteration `k` writes no other word. -/
theorem twistIter_of_ne (c : Config) (mt : StateVector) {k : Nat} (hk : k < N) {i : Fin N} (h : k ≠ i.val) :
    readWord (twistIter c k mt) i = readWord mt i := by
  refine readWord_writeWord_of_ne _ _ fun e => h ?_
  rw [← e]
  exact (Nat.mod_eq_of_lt hk).symm

/-- A word whose iteration has not yet run is still the old one. -/
theorem twistLoop_old (c : Config) (mt : StateVector) (i : Fin N) {k : Nat} (h : k ≤ i.val) :
    readWord (twistLoop c k mt) i = readWord mt i := by
  induction k with
  | zero => rfl
  | succ k ih =>
    have hi := i.isLt
    rw [twistLoop, twistIter_of_ne c _ (by omega) (by omega), ih (by omega)]

/-- A word whose iteration has run is already the one the whole twist leaves. -/
theorem twistLoop_new (c : Config) (mt : StateVector) (i : Fin N) {k : Nat} (h : i.val < k) (hk : k ≤ N) :
    readWord (twistLoop c k mt) i = readWord (twistVector c mt) i := by
  obtain ⟨d, hd⟩ : ∃ d, N = k + d := ⟨N - k, by omega⟩
  have grow : ∀ d, k + d ≤ N → readWord (twistLoop c (k + d) mt) i = readWord (twistLoop c k mt) i := by
    intro d
    induction d with
    | zero => intro _; rfl
    | succ d ih =>
      intro hle
      rw [← Nat.add_assoc, twistLoop, twistIter_of_ne c _ (by omega) (by omega), ih (by omega)]
  rw [twistVector, hd, grow d (by omega)]

/-- What the whole twist leaves in word `i`: `TwistWord` of the array as iteration `i` found it (R92, R43). -/
theorem twistVector_readWord (c : Config) (mt : StateVector) (i : Fin N) :
    readWord (twistVector c mt) i
      = twistWord c (readWord (twistLoop c i.val mt) i)
          (readWord (twistLoop c i.val mt) (nextIndex i.val))
          (readWord (twistLoop c i.val mt) (middleIndex i.val)) := by
  rw [← twistLoop_new c mt i (k := i.val + 1) (by omega) (by omega), twistLoop, twistIter_same]

/-! ### The draw -/

/-- A draw with an unserved word left does not twist. -/
theorem draw_of_lt (c : Config) (mt : StateVector) (mti : Cursor) (h : mti.val < N) :
    draw c mt mti = serve c mt ⟨mti.val, h⟩ := by
  simp [draw, Nat.ne_of_lt h]

/-- A draw at the end of a generation twists and serves word 0. -/
theorem draw_of_eq (c : Config) (mt : StateVector) (mti : Cursor) (h : mti.val = N) :
    draw c mt mti = serve c (twistVector c mt) 0 := by
  simp [draw, h, twist]

@[simp] theorem serve_word (c : Config) (mt : StateVector) (i : Fin N) :
    (serve c mt i).word = temper c (readWord mt i) := rfl
@[simp] theorem serve_mt (c : Config) (mt : StateVector) (i : Fin N) : (serve c mt i).mt = mt := rfl
@[simp] theorem serve_mti (c : Config) (mt : StateVector) (i : Fin N) : (serve c mt i).mti = i.succ := rfl

/-! ### Responses, errors, draw commands, reset -/

theorem respond_eq (status : Status) (data : Word) (s : State) :
    respond status data s = .next (s.withRsp (some ⟨status, data⟩)) := rfl

/-- Raising an error writes the response and nothing else (R141). -/
theorem raise_eq (e : ErrorKind) (s : State) : raise e s = .next (s.withRsp (some ⟨e.status, 0#64⟩)) := rfl

theorem drawCommand_unseeded (c : Config) (f : Word → Word) {s : State} (h : s.engine = .unseeded) :
    drawCommand c f s = .next (s.withRsp (some ⟨.errState, 0#64⟩)) := by
  simp [drawCommand, h, raise_eq, ErrorKind.status]

theorem drawCommand_seeded (c : Config) (f : Word → Word) {s : State} {mt : StateVector} {mti : Cursor}
    (h : s.engine = .seeded mt mti) :
    drawCommand c f s = .next ((s.withEngine (.seeded (draw c mt mti).mt (draw c mt mti).mti)).withRsp
      (some ⟨.ok, f (draw c mt mti).word⟩)) := by
  simp [drawCommand, h, respond_eq]

/-- Everything a draw command can do: refuse and change nothing, or make one draw and answer `OK`. -/
theorem drawCommand_next (c : Config) (f : Word → Word) {s t : State} (h : drawCommand c f s = .next t) :
    (s.engine = .unseeded ∧ t = s.withRsp (some ⟨.errState, 0#64⟩)) ∨
    (∃ mt mti, s.engine = .seeded mt mti ∧
      t = (s.withEngine (.seeded (draw c mt mti).mt (draw c mt mti).mti)).withRsp
        (some ⟨.ok, f (draw c mt mti).word⟩)) := by
  cases he : s.engine with
  | unseeded =>
    rw [drawCommand_unseeded c f he] at h
    exact .inl ⟨rfl, (Host.Outcome.next.inj h).symm⟩
  | seeded mt mti =>
    rw [drawCommand_seeded c f he] at h
    exact .inr ⟨mt, mti, rfl, (Host.Outcome.next.inj h).symm⟩

@[simp] theorem applyReset_engine (s : State) : (applyReset s).engine = .unseeded := rfl
@[simp] theorem applyReset_host (s : State) : (applyReset s).host = s.host := rfl
@[simp] theorem applyReset_rsp (s : State) : (applyReset s).rsp = none := rfl

end Sys2Proof.Machine
end

