-- ==== Sys2Proof/Laws/PerInstr.lean ====
section
/-! SUPPORT. Statements made per instruction. -/

namespace Sys2Proof.Laws.OpcodeRow

/-- The word of a command agrees with its row of spec/opcode_table.json: under the table's mask, which selects the `op`
field alone, it is the row's `match`, the opcode in bits 67 to 64. -/
def Statement (i : Instr) : Prop :=
  encode i &&& 0xF0000000000000000#68 = (i.opcode ++ 0#64 : BitVec (4 + 64))

/-- The table's mask keeps the opcode of a word and clears its argument. -/
theorem mask_append (op : BitVec 4) (arg : Word) :
    (op ++ arg : BitVec (4 + 64)) &&& 0xF0000000000000000#68 = op ++ 0#64 := by
  have : (0xF0000000000000000#68) = (0xF#4 ++ 0#64 : BitVec (4 + 64)) := by decide
  rw [this, BitVec.and_append]
  congr 1
  · exact BitVec.and_allOnes
  · exact BitVec.and_zero

theorem init (seed : Word) : Statement (.init seed) := mask_append _ _
theorem nextDouble (arg : Word) : Statement (.nextDouble arg) := mask_append _ _
theorem nextFloat (arg : Word) : Statement (.nextFloat arg) := mask_append _ _
theorem nextInt (arg : Word) : Statement (.nextInt arg) := mask_append _ _
theorem nextIntBound (ignored bound : BitVec 32) : Statement (.nextIntBound ignored bound) := mask_append _ _
theorem nextLong (arg : Word) : Statement (.nextLong arg) := mask_append _ _
theorem nextBoolean (arg : Word) : Statement (.nextBoolean arg) := mask_append _ _
theorem nextBytes (arg : Word) : Statement (.nextBytes arg) := mask_append _ _
theorem nextGaussian (arg : Word) : Statement (.nextGaussian arg) := mask_append _ _
theorem setSeed (value : Word) : Statement (.setSeed value) := mask_append _ _
theorem nextRaw (arg : Word) : Statement (.nextRaw arg) := mask_append _ _
theorem reserved0 (arg : Word) : Statement (.reserved0 arg) := mask_append _ _
theorem reservedC (arg : Word) : Statement (.reservedC arg) := mask_append _ _
theorem reservedD (arg : Word) : Statement (.reservedD arg) := mask_append _ _
theorem reservedE (arg : Word) : Statement (.reservedE arg) := mask_append _ _
theorem reservedF (arg : Word) : Statement (.reservedF arg) := mask_append _ _

end Sys2Proof.Laws.OpcodeRow
end

