-- ==== Sys2Proof/Laws/Step.lean ====
section
/-! SUPPORT. What a step does with each kind of event, and runs of steps. -/

namespace Sys2Proof.Machine

theorem step_of_command {s : State} {w : Command} {rest : List HostEvent} (h : s.host = .command w :: rest) :
    step s = exec (decode w) (s.withHost rest) := by
  simp only [step, h]

theorem step_of_reset {s : State} {rest : List HostEvent} (h : s.host = .reset :: rest) :
    step s = .next (applyReset (s.withHost rest)) := by
  simp only [step, h]

theorem step_of_nothing {s : State} (h : s.host = []) : step s = .next s := by
  simp only [step, h]

@[simp] theorem steps_zero (s : State) : steps 0 s = .next s := rfl

/-- A run whose first step goes on is the run from where that step leads. -/
theorem steps_succ {s t : State} (k : Nat) (h : step s = .next t) : steps (k + 1) s = steps k t := by
  simp only [steps, h]

theorem run_succ_next (m : Host.Core) (k : Nat) (s t : m.State) (h : m.step s = .next t) :
    m.run (k + 1) s = m.run k t := by
  simp only [Host.Core.run, h]

theorem run_succ_refused (m : Host.Core) (k : Nat) (s : m.State) (r : m.Refusal) (h : m.step s = .refused r) :
    m.run (k + 1) s = .refused r := by
  simp only [Host.Core.run, h]

/-- `steps` is the host's own run of this machine. -/
theorem run_core_eq_steps (k : Nat) (s : State) : Host.Core.run core k s = steps k s := by
  induction k generalizing s with
  | zero => rfl
  | succ k ih =>
    cases h : step s with
    | next t => exact (run_succ_next core k s t h).trans ((ih t).trans (steps_succ k h).symm)
    | fault r => nomatch r
    | refused r => exact (run_succ_refused core k s r h).trans (by simp only [steps, h]; rfl)

end Sys2Proof.Machine
end

