-- ==== Sys2Proof/Tests/Slice0.lean ====
section
/-! SUPPORT. Tests. Expected values are those of spec/95_test_vectors.md (V<n>, P<n>) or of the worked examples of the rule
named; none is the model's own answer. The last part shows, for each statement with hypotheses, states and operands that meet
them. -/

namespace Sys2Proof.Tests

open Sys2Proof.Machine

/-! ### Small states -/

/-- An UNSEEDED machine with nothing presented. -/
def blank : State := State.reset

/-- A SEEDED machine whose word at the cursor `i` is `v` and whose other words are 0. -/
def at_ (i : Fin N) (v : Word) : State :=
  ⟨.seeded (writeWord (Vector.replicate 312 0#64) i v) i.castSucc, [], none⟩

/-- A machine just seeded. -/
def fresh (seed : Word) : State := ⟨seedEngine seed, [], none⟩

/-- A SEEDED machine of zero words with cursor `mti`. -/
def zeros (mti : Cursor) : State := ⟨.seeded (Vector.replicate 312 0#64) mti, [], none⟩

/-- The response of an outcome. -/
def answer : Result → Option Response
  | .next t => t.rsp
  | .fault _ => none
  | .refused _ => none

/-- The cursor an outcome leaves. -/
def cursor : Result → Option Cursor
  | .next t => t.mti?
  | .fault _ => none
  | .refused _ => none

/-- The word `i` an outcome leaves. -/
def word (i : Fin N) : Result → Option Word
  | .next t => t.mt?.map fun mt => readWord mt i
  | .fault _ => none
  | .refused _ => none

/-! ### WellFormed: an ill-formed term for each check -/

theorem test_word_of_69_bits_is_ill_formed : wellFormedWord (2 ^ 68) = false := by decide
theorem test_seed_decimal_too_large_is_ill_formed : Asm.wellFormed (.init (.dec (2 ^ 64))) = false := by decide
theorem test_seed_decimal_too_small_is_ill_formed : Asm.wellFormed (.init (.dec (-2 ^ 63 - 1))) = false := by decide
theorem test_seed_hex_too_large_is_ill_formed : Asm.wellFormed (.init (.hex (2 ^ 64))) = false := by decide
theorem test_bound_decimal_too_large_is_ill_formed : Asm.wellFormed (.nextIntBound (.dec (2 ^ 31))) = false := by decide
theorem test_bound_decimal_too_small_is_ill_formed :
    Asm.wellFormed (.nextIntBound (.dec (-2 ^ 31 - 1))) = false := by decide
theorem test_bound_hex_too_large_is_ill_formed : Asm.wellFormed (.nextIntBound (.hex (2 ^ 32))) = false := by decide
theorem test_value_too_large_is_ill_formed : Asm.wellFormed (.setSeed (some (.dec (2 ^ 64)))) = false := by decide
theorem test_bytes_argument_too_large_is_ill_formed :
    Asm.wellFormed (.nextBytes (some (.hex (2 ^ 64)))) = false := by decide

/-! ### Decode: words from the encoding column and from V38, P1, P3, P5 -/

theorem test_decode_init : decode 0x1FFFFFFFFFFFFFFFF#68 = .init 0xFFFFFFFFFFFFFFFF#64 := by decide
theorem test_decode_next_double : decode 0x20000000000000000#68 = .nextDouble 0#64 := by decide
theorem test_decode_next_float : decode 0x30000000000000000#68 = .nextFloat 0#64 := by decide
theorem test_decode_next_int : decode 0x40000000000000000#68 = .nextInt 0#64 := by decide
theorem test_decode_next_int_bound : decode 0x5FFFFFFFF0000000A#68 = .nextIntBound 0xFFFFFFFF#32 10#32 := by decide
theorem test_decode_next_long : decode 0x60000000000000000#68 = .nextLong 0#64 := by decide
theorem test_decode_next_boolean : decode 0x70000000000000000#68 = .nextBoolean 0#64 := by decide
theorem test_decode_next_bytes : decode 0x80000000000001000#68 = .nextBytes 0x1000#64 := by decide
theorem test_decode_next_gaussian : decode 0x90000000000000000#68 = .nextGaussian 0#64 := by decide
theorem test_decode_set_seed : decode 0xA0000000000000007#68 = .setSeed 7#64 := by decide
theorem test_decode_next_raw : decode 0xBDEADBEEFDEADBEEF#68 = .nextRaw 0xDEADBEEFDEADBEEF#64 := by decide
theorem test_decode_reserved0 : decode 0x00000000000000001#68 = .reserved0 1#64 := by decide
theorem test_decode_reservedC : decode 0xC0000000000000000#68 = .reservedC 0#64 := by decide
theorem test_decode_reservedD : decode 0xD0000000000000000#68 = .reservedD 0#64 := by decide
theorem test_decode_reservedE : decode 0xE0000000000000000#68 = .reservedE 0#64 := by decide
theorem test_decode_reservedF : decode 0xF0000000000000000#68 = .reservedF 0#64 := by decide
theorem test_decode_table_word : decodeTableWord 72 0xB0000000000000000 = some (.nextRaw 0#64) := by decide
theorem test_decode_table_word_too_wide : decodeTableWord 72 0x1B0000000000000000 = none := by decide
/-- P5: `INIT -1`. -/
theorem test_assemble_negative_seed : encode (assemble (.init (.dec (-1)))) = 0x1FFFFFFFFFFFFFFFF#68 := by decide
/-- V38 row 12: `NEXT_INT_BOUND -1`. -/
theorem test_assemble_negative_bound : encode (assemble (.nextIntBound (.dec (-1)))) = 0x500000000FFFFFFFF#68 := by decide
/-- P5: the two widenings of the 32-bit seed -1. -/
theorem test_widen_seed : widenSeed .sign 0xFFFFFFFF#32 = 0xFFFFFFFFFFFFFFFF#64 ∧
    widenSeed .zero 0xFFFFFFFF#32 = 0x00000000FFFFFFFF#64 := by decide

/-! ### Functions: V11, V21, V31, V35, V41 -/

/-- V11: an arithmetic shift would mix in another word. -/
theorem test_seedStep_high_bit : seedStep 0x8000000000000000#64 5 = 0x30A3E85A992AFE5F#64 := by decide
theorem test_seedStep_last_index : seedStep 0xC000000000000000#64 311 = 0xC8F5DC87E5C07EBE#64 := by decide
/-- V21: bit 31 of `cur` is an upper bit, bits 30 to 0 of `nxt` the lower ones. -/
theorem test_twistWord_split :
    twistWord Config.hardware 0x80000000#64 0x7FFFFFFF#64 0#64 = 0xB5026F5AD699E616#64 := by decide
/-- V41: the same words under `UM_DOC`. -/
theorem test_twistWord_document_mask :
    twistWord Config.documentMask 0x80000000#64 0x7FFFFFFF#64 0#64 = 0xB5026F5A9699E616#64 := by decide
/-- V31, all ones and a mixed word. -/
theorem test_temper_all_ones : temper Config.hardware 0xFFFFFFFFFFFFFFFF#64 = 0x7BFEEEEFEFA1D577#64 := by decide
theorem test_temper_stages :
    temper1 Config.hardware 0x0123456789ABCDEF#64 = 0x0123456788BBCCFB#64 ∧
    temper2 Config.hardware 0x0123456788BBCCFB#64 = 0x01E55410011DCCFB#64 ∧
    temper3 Config.hardware 0x01E55410011DCCFB#64 = 0x2254DA70011DCCFB#64 ∧
    temper4 0x2254DA70011DCCFB#64 = 0x2254DA7001198660#64 := by decide
/-- V35: smallest non-zero and largest results. -/
theorem test_toDouble_ends : toDouble 0x800#64 = 0x3CA0000000000000#64 ∧
    toDouble 0xFFFFFFFFFFFFFFFF#64 = 0x3FEFFFFFFFFFFFFF#64 := by decide
theorem test_toFloat_ends : toFloat 0x10000000000#64 = 0x33800000#32 ∧
    toFloat 0xFFFFFFFFFFFFFFFF#64 = 0x3F7FFFFF#32 := by decide
/-- V35: the tie that rounds up to an integer, and the largest bound with the largest draw. -/
theorem test_boundedInt_tie : boundedInt 3 0xAAAAAAAAAAAAA800#64 = 2 := by decide
theorem test_boundedInt_largest : boundedInt 2147483647 0xFFFFFFFFFFFFFFFF#64 = 2147483646 := by decide
theorem test_response_word : Response.toWord ⟨.errState, 0#64⟩ = 0x40000000000000000#67 := by decide

/-! ### Seeding and the twist: V10, V20, V22, V41 -/

theorem test_seeding_fills_the_last_word :
    readWord (seedVector 0#64) 311 = 0xCDE6D1BB67E51A2A#64 := by decide +kernel
theorem test_init_of_negative_seed :
    word 1 (exec (.init 0x8000000000000000#64) blank) = some 0x30A3E85A992AFE5B#64 ∧
    cursor (exec (.init 0x8000000000000000#64) blank) = some 312 ∧
    answer (exec (.init 0x8000000000000000#64) blank) = some ⟨.ok, 0#64⟩ := by decide +kernel
/-- V20 and V42: index 156 is the first whose middle word is already new. -/
theorem test_twist_first_new_middle_word :
    readWord (twistVector Config.hardware (seedVector 0#64)) 156 = 0x8FDF5C7DB7D910B2#64 := by decide +kernel
/-- V20: index 311 reads the new word 0 and the new word 155. -/
theorem test_twist_last_word :
    readWord (twistVector Config.hardware (seedVector 5489#64)) 311 = 0x4094BC3C28993A88#64 := by decide +kernel
/-- V41. -/
theorem test_twist_document_mask :
    readWord (twistVector Config.documentMask (seedVector 0#64)) 311 = 0x2265894C9A300F37#64 := by decide +kernel

/-! ### The commands: V30, V31, V35, V38, P1 -/

/-- V30: the first draw of seed 5489 twists. -/
theorem test_next_raw_twists :
    answer (exec (.nextRaw 0#64) (fresh 5489#64)) = some ⟨.ok, 0xC96D191CF6F6AEA6#64⟩ ∧
    cursor (exec (.nextRaw 0#64) (fresh 5489#64)) = some 1 := by decide +kernel
/-- V31; the last word of a generation is served without a twist, and the vector keeps the untempered word. -/
theorem test_next_raw_serves_the_last_word :
    answer (exec (.nextRaw 7#64) (at_ 311 0x0123456789ABCDEF#64)) = some ⟨.ok, 0x2254DA7001198660#64⟩ ∧
    cursor (exec (.nextRaw 7#64) (at_ 311 0x0123456789ABCDEF#64)) = some 312 ∧
    word 311 (exec (.nextRaw 7#64) (at_ 311 0x0123456789ABCDEF#64)) = some 0x0123456789ABCDEF#64 := by decide +kernel
/-- P1 and V31: words of the first generation of seed 0 and what each conversion makes of them. -/
theorem test_next_double :
    answer (exec (.nextDouble 0#64) (at_ 0 0x4068070C4A24D178#64)) = some ⟨.ok, 0x3FC4741BE2E5A0EC#64⟩ := by decide +kernel
theorem test_next_float :
    answer (exec (.nextFloat 0#64) (at_ 1 0x06999A42A61B1639#64)) = some ⟨.ok, 0x000000003F7DFD3A#64⟩ := by decide +kernel
theorem test_next_int_negative :
    answer (exec (.nextInt 0#64) (at_ 0 0x4068070C4A24D178#64)) = some ⟨.ok, 0xFFFFFFFFCB41DC3E#64⟩ := by decide +kernel
theorem test_next_int_positive :
    answer (exec (.nextInt 0#64) (at_ 1 0x06999A42A61B1639#64)) = some ⟨.ok, 0x000000003E40F98B#64⟩ := by decide +kernel
theorem test_next_long :
    answer (exec (.nextLong 0#64) (at_ 1 0x06999A42A61B1639#64)) = some ⟨.ok, 0xFDFD3A7C3E40F98B#64⟩ := by decide +kernel
/-- V35 and V38 row 13. -/
theorem test_next_int_bound :
    answer (exec (.nextIntBound 0xFFFFFFFF#32 100#32) (at_ 0 0x4068070C4A24D178#64)) = some ⟨.ok, 15#64⟩ := by decide +kernel
/-- V38 rows 14 and 8: the smallest bound; the state is tested before the bound. -/
theorem test_next_int_bound_refused :
    exec (.nextIntBound 0#32 0x80000000#32) (zeros 3) = .next ((zeros 3).withRsp (some ⟨.errInvalidArg, 0#64⟩)) ∧
    exec (.nextIntBound 0#32 0#32) blank = .next ⟨.unseeded, [], some ⟨.errState, 0#64⟩⟩ := ⟨rfl, rfl⟩
/-- V38 row 10. -/
theorem test_init_again :
    exec (.init 5#64) (zeros 3) = .next ((zeros 3).withRsp (some ⟨.errState, 0#64⟩)) := rfl
/-- V38 rows 1 to 3, 9, 15, 16. -/
theorem test_next_boolean : exec (.nextBoolean 0#64) blank = .next ⟨.unseeded, [], some ⟨.errUnsupported, 0#64⟩⟩ := rfl
theorem test_next_bytes : exec (.nextBytes 0x1000#64) blank = .next ⟨.unseeded, [], some ⟨.errUnsupported, 0#64⟩⟩ := rfl
theorem test_next_gaussian : exec (.nextGaussian 0#64) blank = .next ⟨.unseeded, [], some ⟨.errUnsupported, 0#64⟩⟩ := rfl
theorem test_set_seed : exec (.setSeed 7#64) blank = .next ⟨.unseeded, [], some ⟨.ok, 0#64⟩⟩ := rfl
theorem test_reserved0 : exec (.reserved0 1#64) blank = .next ⟨.unseeded, [], some ⟨.errIllegalOp, 0#64⟩⟩ := rfl
theorem test_reservedC : exec (.reservedC 1#64) blank = .next ⟨.unseeded, [], some ⟨.errIllegalOp, 0#64⟩⟩ := rfl
theorem test_reservedD : exec (.reservedD 1#64) blank = .next ⟨.unseeded, [], some ⟨.errIllegalOp, 0#64⟩⟩ := rfl
theorem test_reservedE : exec (.reservedE 1#64) blank = .next ⟨.unseeded, [], some ⟨.errIllegalOp, 0#64⟩⟩ := rfl
theorem test_reservedF : exec (.reservedF 1#64) blank = .next ⟨.unseeded, [], some ⟨.errIllegalOp, 0#64⟩⟩ := rfl

/-! ### The step -/

/-- R165: a reset event on a SEEDED machine. -/
theorem test_step_reset : step ((zeros 3).withHost [.reset]) = .next ⟨.unseeded, [], none⟩ := rfl
theorem test_step_fetch_word :
    step (State.reset.withFetchWord 72 0xF0000000000000000) = .next ⟨.unseeded, [], some ⟨.errIllegalOp, 0#64⟩⟩ := rfl

/-! ### Witnesses: the hypotheses of each statement can be met -/

/-- A machine that errors in its one command, and one that succeeds. -/
def erring : State := ⟨.unseeded, [], some ⟨.errState, 0#64⟩⟩

theorem witness_ResetIsTheOnlyWayToUnseed :
    ((zeros 3).withHost [.reset]).host = .reset :: [] ∧
    step ((zeros 3).withHost [.reset]) = .next ⟨.unseeded, [], none⟩ ∧
    ((zeros 3).withHost [.reset]).seeded = true ∧ (⟨.unseeded, [], none⟩ : State).seeded = false := ⟨rfl, rfl, rfl, rfl⟩
theorem witness_StepRunsTheDecodedCommand :
    (blank.withHost [.command 0xB0000000000000000#68]).host = .command 0xB0000000000000000#68 :: [] := rfl
theorem witness_StepWithNothingPresentedHoldsTheState : (zeros 3).host = [] := rfl
theorem witness_FetchWordIsRunNext : decodeTableWord 72 0xF0000000000000000 = some (.reservedF 0#64) := by decide
theorem witness_OnlyCommandWordsDecode :
    (decodeTableWord 72 (2 ^ 68 - 1)).isSome = true ∧ (decodeTableWord 72 (2 ^ 68)).isSome = false := by decide
theorem witness_IgnoredArgumentBitsHaveNoEffect :
    opField 0x1FFFFFFFFFFFFFFFF#68 = 0x1#4 ∧ opField 0x5FFFFFFFF0000000A#68 = 0x5#4 ∧
    sameRelevantBits 0x5FFFFFFFF0000000A#68 0x5000000000000000A#68 = true ∧
    sameRelevantBits 0xBDEADBEEFDEADBEEF#68 0xB0000000000000000#68 = true := by decide
theorem witness_AssembledLiteralsAreTwosComplement :
    (Literal.dec (-2 ^ 63)).fits64 = true ∧ (Literal.dec (2 ^ 64 - 1)).fits64 = true ∧
    (Literal.hex (2 ^ 64 - 1)).fits64 = true ∧
    (Literal.dec (-2 ^ 31)).fitsBound = true ∧ (Literal.dec (2 ^ 31 - 1)).fitsBound = true := by decide
theorem witness_ErrorsChangeNothing :
    exec (.nextRaw 0#64) blank = .next erring ∧ erring.rsp = some ⟨.errState, 0#64⟩ ∧ Status.errState ≠ .ok :=
  ⟨rfl, rfl, by decide⟩
theorem witness_OnlyInitAndDrawsChangeTheBlock :
    (exec (.init 0#64) blank = .next (⟨seedEngine 0#64, [], some ⟨.ok, 0#64⟩⟩) ∧ seedEngine 0#64 ≠ blank.engine) ∧
    (∃ t, exec (.nextRaw 0#64) (zeros 3) = .next t ∧ t.engine ≠ (zeros 3).engine) :=
  ⟨⟨rfl, by simp [seedEngine, blank, State.reset]⟩, _, rfl, fun h => by
    have := congrArg (fun e => match e with | .unseeded => 0 | .seeded _ mti => mti.val) h
    revert this
    decide +kernel⟩
theorem witness_StepKeepsTheCursorOffZero :
    (zeros 1).Inv ∧ step ((zeros 1).withHost []) = .next (zeros 1) ∧
    State.Inv ⟨.unseeded, [.command 0xB0000000000000000#68], none⟩ := by
  refine ⟨⟨?_, ?_⟩, rfl, ?_, ?_⟩
  · intro mti h
    cases h
    decide
  all_goals
    intro x h
    cases h
theorem witness_SeedStepIsTheRecurrence : (0x3FFFFFFFFFFFFFFF#64 : Word).toNat < 2 ^ 62 := by decide
theorem witness_InitSeedsTheWholeVector :
    blank.engine = .unseeded ∧ 310 + 1 < 312 ∧ (zeros 312).seeded = true := ⟨rfl, by decide, rfl⟩
theorem witness_InitIsRefusedOnceSeeded :
    (zeros 312).engine = .seeded (Vector.replicate 312 0#64) 312 := rfl
theorem witness_InitNeverLeavesTheZeroVector :
    blank.engine = .unseeded ∧ exec (.init 0#64) blank = .next ⟨seedEngine 0#64, [], some ⟨.ok, 0#64⟩⟩ ∧
    (⟨seedEngine 0#64, [], some ⟨.ok, 0#64⟩⟩ : State).mt? = some (seedVector 0#64) := ⟨rfl, rfl, rfl⟩
theorem witness_TwistWordMixesThreeWords :
    Config.hardware.um.getLsbD 0 = false ∧ Config.documentMask.um.getLsbD 0 = false ∧
    Config.hardware.lawful = true ∧ Config.documentMask.lawful = true ∧
    0x0#64 &&& Config.hardware.um = 0x7FFFFFFF#64 &&& Config.hardware.um ∧
    0x0#64 &&& ~~~Config.hardware.um = 0x80000000#64 &&& ~~~Config.hardware.um := by decide
theorem witness_TwistRegeneratesInPlace : 0 ≤ 155 ∧ 155 ≤ 155 ∧ 0 + 156 ≤ 310 ∧ 154 + 156 ≤ 310 := by decide
theorem witness_TemperAppliesFourStages :
    (0x80BBCCFB#64 : Word) = 0x80BBCCFB#64 ∧ 35 ≤ 35 ∧ 35 ≤ 63 ∧ 21 ≤ 21 ∧ 21 ≤ 63 := by decide
theorem witness_NextRawServesTheNextWord :
    blank.engine = .unseeded ∧ 0 < N ∧ 311 < N ∧
    (zeros 0).engine = .seeded (Vector.replicate 312 0#64) ⟨0, by decide⟩ ∧
    (zeros 311).engine = .seeded (Vector.replicate 312 0#64) ⟨311, by decide⟩ ∧
    (zeros 312).engine = .seeded (Vector.replicate 312 0#64) ⟨312, by decide⟩ :=
  ⟨rfl, by decide, by decide, rfl, rfl, rfl⟩
/-- For `NEXT_LONG`, `NEXT_DOUBLE`, `NEXT_FLOAT` and `NEXT_INT`: an UNSEEDED and two SEEDED machines, and draws with `k = 0`
and with `k ≠ 0` (V31: `Temper(0) = 0`, and the first word of seed 0). -/
theorem witness_ConversionsOfADraw :
    blank.engine = .unseeded ∧
    (zeros 0).engine = .seeded (Vector.replicate 312 0#64) 0 ∧ (zeros 312).engine = .seeded (Vector.replicate 312 0#64) 312 ∧
    (draw Config.hardware (Vector.replicate 312 0#64) 0).word.toNat / 2 ^ 11 = 0 ∧
    (draw Config.hardware (Vector.replicate 312 0#64) 0).word.toNat / 2 ^ 40 = 0 ∧
    (draw Config.hardware (writeWord (Vector.replicate 312 0#64) 0 0x4068070C4A24D178#64) 0).word.toNat / 2 ^ 11 ≠ 0 ∧
    (draw Config.hardware (writeWord (Vector.replicate 312 0#64) 0 0x4068070C4A24D178#64) 0).word.toNat / 2 ^ 40 ≠ 0 := by
  refine ⟨rfl, rfl, rfl, ?_, ?_, ?_, ?_⟩ <;> decide +kernel
theorem witness_NextIntBoundFloorsTheRoundedProduct :
    blank.engine = .unseeded ∧ (zeros 0).engine = .seeded (Vector.replicate 312 0#64) 0 ∧
    (0#32).toInt ≤ 0 ∧ (0x80000000#32).toInt ≤ 0 ∧ 1 ≤ (1#32).toInt ∧ 1 ≤ (0x7FFFFFFF#32).toInt :=
  ⟨rfl, rfl, by decide, by decide, by decide, by decide⟩
theorem witness_NonPositiveBoundIsRefusedBeforeTheDraw :
    (0#32 = 0#32 ∨ (0#32).getLsbD 31 = true) ∧ (0x80000000#32 = 0#32 ∨ (0x80000000#32).getLsbD 31 = true) ∧
    (zeros 0).seeded = true ∧ blank.seeded = false := by decide +kernel
theorem witness_RoundingIsNearestTiesToEven :
    2 ^ 53 - 1 < 2 ^ 53 ∧ (1 ≤ 1 ∧ 2 ^ (52 + 1) ≤ 2 ^ 53 ∧ 2 ^ 53 < 2 ^ (53 + 1)) ∧
    (2 ^ (52 + 1) ≤ 2 ^ 54 - 1 ∧ 2 ^ 54 - 1 < 2 ^ (53 + 1)) ∧
    (2 * (2 ^ 54 - 1) = 2 * rne53 (2 ^ 54 - 1) + 2 ^ 1 ∨ 2 * rne53 (2 ^ 54 - 1) = 2 * (2 ^ 54 - 1) + 2 ^ 1) := by decide
theorem witness_BoundedResultsStayBelowTheBound :
    (1 ≤ 1 ∧ 1 ≤ 2 ^ 31 - 1) ∧ (1 ≤ 2 ^ 31 - 1 ∧ 2 ^ 31 - 1 ≤ 2 ^ 31 - 1) := by decide
theorem witness_DrawCommandsAreRefusedWhileUnseeded :
    isDraw (.nextRaw 0#64) = true ∧ isDraw (.nextIntBound 0#32 0#32) = true ∧ blank.seeded = false := by decide
theorem witness_DrawsServeTheGenerationsInOrder :
    (⟨.seeded (Vector.replicate 312 0#64) 312, [.command 0xB0000000000000000#68], none⟩ : State).engine
      = .seeded (Vector.replicate 312 0#64) ⟨312, by decide⟩ ∧
    (⟨.seeded (Vector.replicate 312 0#64) 312, [.command 0xB0000000000000000#68], none⟩ : State).host
      = [0xB0000000000000000#68].map HostEvent.command ∧
    [0xB0000000000000000#68].getLast? = some 0xB0000000000000000#68 ∧
    decode 0xB0000000000000000#68 = .nextRaw 0#64 ∧ isDraw (decode 0xB0000000000000000#68) = true ∧
    succeedsIn (decode 0xB0000000000000000#68) (zeros 312) = true :=
  ⟨rfl, rfl, rfl, by decide, by decide, by decide +kernel⟩
theorem witness_SystemCommandsLeaveTheStreamAlone :
    isSystem (decode 0x70000000000000000#68) = true ∧ isSystem (decode 0xA0000000000000007#68) = true := by decide

end Sys2Proof.Tests
end

section
/-! PROOFS. The state after reset (R34). -/

namespace Sys2Proof.Machine

@[simp] theorem State.reset_engine : State.reset.engine = .unseeded := rfl

/-- While the block is UNSEEDED the state vector holds no value (R34). -/
theorem State.mt?_of_unseeded {s : State} (h : s.engine = .unseeded) : s.mt? = none := by
  simp only [State.mt?, h]

/-- While the block is UNSEEDED the cursor holds no value (R34). -/
theorem State.mti?_of_unseeded {s : State} (h : s.engine = .unseeded) : s.mti? = none := by
  simp only [State.mti?, h]

/-- Settles O1: reset leaves the block UNSEEDED, and an UNSEEDED block has flag 0 and neither vector nor cursor. -/
theorem resetLeavesTheBlockUnseeded : Obligations.ResetLeavesTheBlockUnseeded :=
  ⟨(State.seeded_eq_false_iff _).mpr State.reset_engine,
    State.mt?_of_unseeded State.reset_engine,
    State.mti?_of_unseeded State.reset_engine⟩

end Sys2Proof.Machine
end

section
/-! PROOFS. The two fields of a decoded command, and the operands that R65 assembles from its argument. -/

namespace Sys2Proof

/-- The command that an opcode stands for has that opcode (R64, R67). -/
@[simp] theorem opcode_commandOf (op : BitVec 4) (arg : Word) : (commandOf op arg).opcode = op := by
  have codes : ∀ op : BitVec 4, (commandOf op 0#64).opcode = op := by decide
  have argless : (commandOf op arg).opcode = (commandOf op 0#64).opcode := by
    unfold commandOf
    split <;> rfl
  rw [argless, codes]

/-- The two halves that a bound is decoded into make up the argument again (R65). -/
theorem argBits_nextIntBound (arg : Word) :
    (Instr.nextIntBound (arg.extractLsb' 32 32) (arg.extractLsb' 0 32)).argBits = arg := by
  calc arg.extractLsb' 32 32 ++ arg.extractLsb' 0 32
      = arg.extractLsb' 0 (32 + 32) := BitVec.extractLsb'_append_extractLsb'_eq_extractLsb' rfl
    _ = arg := BitVec.extractLsb'_eq_self

/-- The command that an opcode and an argument stand for keeps every bit of the argument (log 8). -/
@[simp] theorem argBits_commandOf (op : BitVec 4) (arg : Word) : (commandOf op arg).argBits = arg := by
  unfold commandOf
  split
  -- only the arm of `NEXT_INT_BOUND`, the sixth, takes the argument apart
  case h_6 => exact argBits_nextIntBound arg
  all_goals rfl

/-- Encoding a decoded word gives the word back (R60, R68). -/
@[simp] theorem encode_decode (w : Command) : encode (decode w) = w := by
  rw [encode, decode, opcode_commandOf, argBits_commandOf]
  exact append_fields w

namespace Machine

/-- The bound of a `NEXT_INT_BOUND` is read from the low half of its argument (R65). -/
@[simp] theorem boundOfArg_nextIntBound (ignored bound : BitVec 32) :
    boundOfArg (Instr.nextIntBound ignored bound).argBits = boundOperand bound :=
  congrArg boundOperand BitVec.extractLsb'_append_eq_right

end Machine

end Sys2Proof
end

section
/-! PROOFS. The reserved opcodes (R67). -/

namespace Sys2Proof.Machine

/-- Settles O43: each of the five opcodes has its own constructor, and the meaning of each is to raise `IllegalOp`. -/
theorem reservedOpcodesAreIllegal : Obligations.ReservedOpcodesAreIllegal := fun _ s =>
  have illegal : raise .illegalOp s = .next (s.withRsp (some ⟨.errIllegalOp, 0#64⟩)) := raise_eq .illegalOp s
  ⟨rfl, rfl, rfl, rfl, rfl, illegal, illegal, illegal, illegal, illegal⟩

end Sys2Proof.Machine
end

section
/-! PROOFS. The machine and the total function `Step` of R66: one law for each outcome of `transact`, then the agreement
of every command's meaning with it. -/

namespace Sys2Proof.Machine

/-! ### The outcomes of the total function -/

section Outcomes

variable {c : Config} {e : Engine} {i : Instr} {mt : StateVector} {mti : Cursor}

/-- Step 1 of R66: the reserved opcodes. -/
theorem transact_reserved (h : i.opcode ∈ [0x0#4, 0xC#4, 0xD#4, 0xE#4, 0xF#4]) :
    transact c e (encode i) = (e, errorResponse .illegalOp) := by
  simp only [transact, opField_encode, if_pos h]

/-- Step 2 of R66: the operations that always fail. -/
theorem transact_unsupported (h : i.opcode ∈ [0x7#4, 0x8#4, 0x9#4]) :
    transact c e (encode i) = (e, errorResponse .unsupported) := by
  have passes : ∀ op ∈ [0x7#4, 0x8#4, 0x9#4], op ∉ [0x0#4, 0xC#4, 0xD#4, 0xE#4, 0xF#4] := by decide
  simp only [transact, opField_encode, if_neg (passes _ h), if_pos h]

/-- Step 3 of R66: `SET_SEED`. -/
theorem transact_setSeed (value : Word) : transact c e (encode (.setSeed value)) = (e, ⟨.ok, 0#64⟩) := by
  simp [transact, Instr.opcode]

/-- Step 4 of R66: `INIT` of an UNSEEDED block. -/
theorem transact_init_unseeded (seed : Word) :
    transact c .unseeded (encode (.init seed)) = (seedEngine (seedOperand seed), ⟨.ok, 0#64⟩) := by
  simp [transact, Instr.opcode, Instr.argBits, Engine.isSeeded]

/-- Step 4 of R66: `INIT` of a SEEDED block. -/
theorem transact_init_seeded (seed : Word) :
    transact c (.seeded mt mti) (encode (.init seed)) = (.seeded mt mti, errorResponse .stateError) := by
  simp [transact, Instr.opcode, Engine.isSeeded]

/-- The draw commands pass the tests of steps 1 to 4 of R66. -/
theorem opcode_of_isDraw (h : isDraw i = true) :
    i.opcode ∉ [0x0#4, 0xC#4, 0xD#4, 0xE#4, 0xF#4] ∧ i.opcode ∉ [0x7#4, 0x8#4, 0x9#4] ∧
      i.opcode ≠ 0xA#4 ∧ i.opcode ≠ 0x1#4 := by
  have passes : ∀ op ∈ [0x2#4, 0x3#4, 0x4#4, 0x5#4, 0x6#4, 0xB#4],
      op ∉ [0x0#4, 0xC#4, 0xD#4, 0xE#4, 0xF#4] ∧ op ∉ [0x7#4, 0x8#4, 0x9#4] ∧ op ≠ 0xA#4 ∧ op ≠ 0x1#4 := by
    decide
  exact passes _ (of_decide_eq_true h)

/-- Step 5 of R66: a draw command before `INIT`. -/
theorem transact_draw_unseeded (h : isDraw i = true) :
    transact c .unseeded (encode i) = (.unseeded, errorResponse .stateError) := by
  obtain ⟨h1, h2, h3, h4⟩ := opcode_of_isDraw h
  simp only [transact, opField_encode, if_neg h1, if_neg h2, if_neg h3, if_neg h4]

/-- Step 6 of R66: a bound that is not positive. -/
theorem transact_bound_refused (ignored : BitVec 32) {bound : BitVec 32} (hb : boundOperand bound ≤ 0) :
    transact c (.seeded mt mti) (encode (.nextIntBound ignored bound)) =
      (.seeded mt mti, errorResponse .invalidArgument) := by
  simp [transact, Instr.opcode, hb]

/-- Step 7 of R66: the draw. -/
theorem transact_draw_seeded (h : isDraw i = true) (hb : ¬ (i.opcode = 0x5#4 ∧ boundOfArg i.argBits ≤ 0)) :
    transact c (.seeded mt mti) (encode i) = (.seeded (draw c mt mti).mt (draw c mt mti).mti,
      ⟨.ok, formatFor i.opcode (draw c mt mti).word i.argBits⟩) := by
  obtain ⟨h1, h2, h3, h4⟩ := opcode_of_isDraw h
  simp only [transact, opField_encode, argField_encode, if_neg h1, if_neg h2, if_neg h3, if_neg h4, if_neg hb]

end Outcomes

/-! ### Every meaning is the total function -/

/-- The machine after a transaction: the block and the response it ends with, and the events still to come. -/
def State.settle (s : State) (p : Engine × Response) : State := ⟨p.1, s.host, some p.2⟩

/-- A transaction that leaves the block alone writes the response and nothing else. -/
theorem State.settle_of_engine_eq {s : State} {e : Engine} (h : s.engine = e) (r : Response) :
    s.settle (e, r) = s.withRsp (some r) := h ▸ rfl

section Agreement

variable {c : Config} {i : Instr} {w : Command} {s : State}

/-- Answering as `respond` does agrees with the total function where that keeps the block and answers the same. -/
theorem respond_eq_settle {status : Status} {data : Word}
    (h : transact c s.engine w = (s.engine, ⟨status, data⟩)) :
    respond status data s = .next (s.settle (transact c s.engine w)) := by
  rw [h, State.settle_of_engine_eq rfl, respond_eq]

/-- A raised error agrees with the total function where that ends in the same error. -/
theorem raise_eq_settle {k : ErrorKind} (h : transact c s.engine w = (s.engine, errorResponse k)) :
    raise k s = .next (s.settle (transact c s.engine w)) :=
  respond_eq_settle h

/-- The body of a draw command is steps 5 and 7 of R66, where step 6 does not refuse its bound. -/
theorem drawCommand_eq_settle {f : Word → Word} (h : isDraw i = true)
    (hb : ¬ (i.opcode = 0x5#4 ∧ boundOfArg i.argBits ≤ 0)) (hf : ∀ y, formatFor i.opcode y i.argBits = f y) :
    drawCommand c f s = .next (s.settle (transact c s.engine (encode i))) := by
  cases he : s.engine with
  | unseeded =>
    rw [drawCommand_unseeded c f he, transact_draw_unseeded h, State.settle_of_engine_eq he]
    rfl
  | seeded mt mti =>
    rw [drawCommand_seeded c f he, transact_draw_seeded h hb, hf]
    rfl

/-- `INIT` is step 4 of R66. -/
theorem execInit_eq_settle (seed : Word) :
    execInit seed s = .next (s.settle (transact c s.engine (encode (.init seed)))) := by
  cases he : s.engine with
  | unseeded =>
    rw [transact_init_unseeded]
    simp only [execInit, he]
    rfl
  | seeded mt mti =>
    rw [transact_init_seeded, State.settle_of_engine_eq he]
    simp only [execInit, he]
    rfl

/-- `NEXT_INT_BOUND` is steps 5 to 7 of R66: the state is tested before the bound, the bound before the draw. -/
theorem execNextIntBound_eq_settle (ignored bound : BitVec 32) :
    execNextIntBound bound s =
      .next (s.settle (transact Config.hardware s.engine (encode (.nextIntBound ignored bound)))) := by
  unfold execNextIntBound
  split_ifs with hs hb
  · obtain ⟨mt, mti, he⟩ := s.seeded_eq_true_iff.mp hs
    apply raise_eq_settle
    rw [he, transact_bound_refused ignored hb]
  · apply drawCommand_eq_settle rfl
    · rw [boundOfArg_nextIntBound]
      exact fun refused => hb refused.2
    · intro y
      simp [formatFor, Instr.opcode]
  · apply raise_eq_settle
    rw [s.seeded_eq_false_iff.mp (Bool.eq_false_of_not_eq_true hs), transact_draw_unseeded rfl]

/-- Executing a command is the total function of R66 on the command's word. -/
theorem exec_eq_settle (i : Instr) (s : State) :
    exec i s = .next (s.settle (transact Config.hardware s.engine (encode i))) := by
  cases i
  case reserved0 | reservedC | reservedD | reservedE | reservedF =>
    exact raise_eq_settle (transact_reserved (by simp [Instr.opcode]))
  case nextBoolean | nextBytes | nextGaussian =>
    exact raise_eq_settle (transact_unsupported (by simp [Instr.opcode]))
  case setSeed value =>
    exact respond_eq_settle (transact_setSeed value)
  case init seed =>
    exact execInit_eq_settle seed
  case nextIntBound ignored bound =>
    exact execNextIntBound_eq_settle ignored bound
  case nextDouble | nextFloat | nextInt | nextLong | nextRaw =>
    exact drawCommand_eq_settle rfl (by simp [Instr.opcode]) fun _ => rfl

end Agreement

/-- Settles O13: every command's meaning is the total function on its word, and a word is that of the command it decodes
to. -/
theorem machineRefinesTheTotalStepFunction : Obligations.MachineRefinesTheTotalStepFunction := fun s w => by
  have agree := exec_eq_settle (decode w) s
  rwa [encode_decode] at agree

end Sys2Proof.Machine
end

section
/-! PROOFS. Ignored argument bits (R65): the total function reads the argument at two opcodes only. -/

namespace Sys2Proof.Machine

/-- Outside `INIT` and `NEXT_INT_BOUND` the total function does not read the argument. -/
theorem transact_congr_of_opField_eq {c : Config} {e : Engine} {w w' : Command} (h : opField w = opField w')
    (h1 : opField w ≠ 0x1#4) (h5 : opField w ≠ 0x5#4) : transact c e w = transact c e w' := by
  have h1' := h ▸ h1
  have h5' := h ▸ h5
  simp [transact, formatFor, h, h1', h5']

/-- At `NEXT_INT_BOUND` the total function reads the argument as a bound only. -/
theorem transact_congr_of_bound_eq {c : Config} {e : Engine} {w w' : Command} (h : opField w = 0x5#4)
    (h' : opField w' = 0x5#4) (hb : boundOfArg (argField w) = boundOfArg (argField w')) :
    transact c e w = transact c e w' := by
  simp [transact, formatFor, h, h', hb]

/-- Two words that differ only in bits their opcode ignores have the same transaction. -/
theorem transact_congr_of_sameRelevantBits {c : Config} {e : Engine} {w w' : Command}
    (h : sameRelevantBits w w' = true) : transact c e w = transact c e w' := by
  simp only [sameRelevantBits, Bool.and_eq_true, beq_iff_eq] at h
  obtain ⟨hop, harg⟩ := h
  split_ifs at harg with h1 h5
  · have same : w = w' := by
      rw [← append_fields w, ← append_fields w', hop, beq_iff_eq.mp harg]
    rw [same]
  · exact transact_congr_of_bound_eq h5 (hop ▸ h5) (congrArg boundOperand (beq_iff_eq.mp harg))
  · exact transact_congr_of_opField_eq hop h1 h5

/-- Settles O10: decoding takes the operands of `INIT` and `NEXT_INT_BOUND` as R65 says, and since the machine is the total
function of R66, no other bit of an argument has an effect. -/
theorem ignoredArgumentBitsHaveNoEffect : Obligations.IgnoredArgumentBitsHaveNoEffect := by
  refine ⟨fun w h => ?_, fun w h => ⟨(argField w).extractLsb' 32 32, (argField w).extractLsb' 0 32, ?_, rfl⟩, fun w w' s h => ?_⟩
  · rw [decode, h]
    rfl
  · rw [decode, h]
    rfl
  · rw [machineRefinesTheTotalStepFunction, machineRefinesTheTotalStepFunction,
      transact_congr_of_sameRelevantBits h]

end Sys2Proof.Machine
end

section
/-! PROOFS. Seeding (R81, R82, R84). -/

namespace Sys2Proof.Machine

/-! ### The seeding step -/

/-- `SeedStep` with the numerals of R81. -/
theorem seedStep_eq (prev : Word) (i : Nat) :
    seedStep prev i = 6364136223846793005#64 * (prev ^^^ (prev >>> 62)) + BitVec.ofNat 64 i := rfl

/-- Where the shifted term of `SeedStep` is zero, the word itself is multiplied. -/
theorem seedStep_of_shift_eq_zero {prev : Word} (h : prev >>> 62 = 0#64) (i : Nat) :
    seedStep prev i = 6364136223846793005#64 * prev + BitVec.ofNat 64 i := by
  rw [seedStep_eq, h, BitVec.xor_zero]

/-- Only bits 63 and 62 enter the shifted term of `SeedStep`. -/
theorem ushiftRight_62_of_lt {prev : Word} (h : prev.toNat < 2 ^ 62) : prev >>> 62 = 0#64 := by
  apply BitVec.eq_of_toNat_eq
  rw [BitVec.toNat_ushiftRight, Nat.shiftRight_eq_div_pow]
  exact Nat.div_eq_of_lt h

/-- Settles O19: the formula is the definition, and a word below 2^62, such as zero, has a zero shifted term. -/
theorem seedStepIsTheRecurrence : Obligations.SeedStepIsTheRecurrence := by
  refine ⟨seedStep_eq, fun i => ?_, fun prev i h => seedStep_of_shift_eq_zero (ushiftRight_62_of_lt h) i⟩
  rw [seedStep_of_shift_eq_zero BitVec.zero_ushiftRight, BitVec.mul_zero, BitVec.zero_add]

/-! ### `INIT` -/

/-- `INIT` of an UNSEEDED block seeds it and answers `OK` (R82). -/
theorem execInit_unseeded (seed : Word) {s : State} (h : s.engine = .unseeded) :
    execInit seed s = .next ((s.withEngine (seedEngine seed)).withRsp (some ⟨.ok, 0#64⟩)) := by
  simp only [execInit, h, respond_eq, seedOperand]

/-- `INIT` of a SEEDED block is refused (R84). -/
theorem execInit_seeded (seed : Word) {s : State} {mt : StateVector} {mti : Cursor} (h : s.engine = .seeded mt mti) :
    execInit seed s = .next (s.withRsp (some ⟨.errState, 0#64⟩)) := by
  simp only [execInit, h, raise_eq, ErrorKind.status]

/-- Settles O21: the refusal of `INIT` on a SEEDED block writes the response alone. -/
theorem initIsRefusedOnceSeeded : Obligations.InitIsRefusedOnceSeeded :=
  fun seed _ _ _ h => execInit_seeded seed h

/-- Settles O20: the vector is the one that the seeding loop builds, word after word by `SeedStep`. -/
theorem initSeedsTheWholeVector : Obligations.InitSeedsTheWholeVector := by
  refine fun seed s => ⟨rfl, fun unseeded => ⟨seedVector seed, ?_, ?_, fun i h => ?_⟩, fun seeded => ?_⟩
  · exact execInit_unseeded seed unseeded
  · exact seedVector_zero seed
  · exact (seedVector_succ seed i h).trans (seedStep_eq _ _)
  · obtain ⟨mt, mti, engine⟩ := s.seeded_eq_true_iff.mp seeded
    exact initIsRefusedOnceSeeded seed s mt mti engine

end Sys2Proof.Machine
end

section
/-! PROOFS. The twist: its word function (R91), and the words that each iteration reads (R93). -/

namespace Sys2Proof.Machine

/-! ### The word function -/

/-- Bit 0 of the mixed word is that of the next word, where `UM` leaves it to `LM` (R91). -/
theorem getLsbD_zero_mix {um : Word} (h : um.getLsbD 0 = false) (cur nxt : Word) :
    ((cur &&& um) ||| (nxt &&& ~~~um)).getLsbD 0 = nxt.getLsbD 0 := by
  rw [BitVec.getLsbD_or, BitVec.getLsbD_and, BitVec.getLsbD_and, BitVec.getLsbD_not, h]
  simp

/-- `TwistWord` as one XOR of three terms, where `UM` leaves bit 0 to `LM` (R91). -/
theorem twistWord_eq {c : Config} (h : c.um.getLsbD 0 = false) (cur nxt mid : Word) :
    twistWord c cur nxt mid =
      mid ^^^ ((((cur &&& c.um) ||| (nxt &&& ~~~c.um)) >>> 1) ^^^ (if nxt.getLsbD 0 then c.a else 0#64)) := by
  simp only [twistWord, Config.lm, getLsbD_zero_mix h]
  split
  · rfl
  · rw [BitVec.xor_zero]

/-- `TwistWord` reads its first two arguments through the masks only (R91). -/
theorem twistWord_congr {c : Config} {cur cur' nxt nxt' : Word} (hcur : cur &&& c.um = cur' &&& c.um)
    (hnxt : nxt &&& ~~~c.um = nxt' &&& ~~~c.um) (mid : Word) :
    twistWord c cur nxt mid = twistWord c cur' nxt' mid := by
  unfold twistWord Config.lm
  rw [hcur, hnxt]

/-- The shift drops the one bit that the word 1 can bring into the mixed word. -/
theorem one_and_ushiftRight_one (m : Word) : (1#64 &&& m) >>> 1 = 0#64 := by
  rw [BitVec.ushiftRight_and_distrib, show (1#64 >>> 1 : Word) = 0#64 by decide, BitVec.zero_and]

/-- Settles O24: with bit 0 of `UM` clear the conditional XOR is decided by the next word alone. -/
theorem twistWordMixesThreeWords : Obligations.TwistWordMixesThreeWords := by
  intro c h
  refine ⟨twistWord_eq h, fun _ _ _ _ mid hcur hnxt => twistWord_congr hcur hnxt mid, ?_, ?_⟩
  · rw [twistWord_eq h]
    simp
  · rw [twistWord_eq h]
    simp [one_and_ushiftRight_one]

/-! ### Old words and new words -/

/-- The next word is one further on, short of the end of the vector. -/
theorem nextIndex_of_lt {i : Nat} (h : i + 1 < N) : nextIndex i = ⟨i + 1, h⟩ :=
  Fin.ext (Nat.mod_eq_of_lt h)

/-- The middle word is `M` further on, in the first half of the vector. -/
theorem middleIndex_of_lt {i : Nat} (h : i + M < N) : middleIndex i = ⟨i + M, h⟩ :=
  Fin.ext (Nat.mod_eq_of_lt h)

/-- The middle word wraps around to `M` further back, in the second half of the vector. -/
theorem middleIndex_add_M {i : Nat} (h : i < N) : middleIndex (i + M) = ⟨i, h⟩ :=
  Fin.ext ((Nat.add_mod_right i N).trans (Nat.mod_eq_of_lt h))

/-- A word of the first half has a next word that does not wrap. -/
theorem succ_lt_of_add_M_lt {i : Nat} (h : i + M < N) : i + 1 < N :=
  lt_of_le_of_lt (Nat.add_le_add_left (by decide) i) h

section Table

variable (c : Config) (mt : StateVector) {i : Nat}

/-- An iteration of the first half reads three old words (R93). -/
theorem twistVector_first_half (h : i + M < N) :
    readWord (twistVector c mt) ⟨i, by omega⟩
      = twistWord c (readWord mt ⟨i, by omega⟩) (readWord mt ⟨i + 1, succ_lt_of_add_M_lt h⟩)
          (readWord mt ⟨i + M, h⟩) := by
  rw [twistVector_readWord, nextIndex_of_lt (succ_lt_of_add_M_lt h), middleIndex_of_lt h,
    twistLoop_old c mt ⟨i, _⟩ le_rfl, twistLoop_old c mt ⟨i + 1, _⟩ (Nat.le_add_right i 1),
    twistLoop_old c mt ⟨i + M, _⟩ (Nat.le_add_right i M)]

/-- An iteration of the second half, but for the last, reads a middle word that this twist has written (R93). -/
theorem twistVector_second_half (h : i + M + 1 < N) :
    readWord (twistVector c mt) ⟨i + M, by omega⟩
      = twistWord c (readWord mt ⟨i + M, by omega⟩) (readWord mt ⟨i + M + 1, h⟩)
          (readWord (twistVector c mt) ⟨i, by omega⟩) := by
  rw [twistVector_readWord, nextIndex_of_lt h, middleIndex_add_M (show i < N by omega),
    twistLoop_old c mt ⟨i + M, _⟩ le_rfl, twistLoop_old c mt ⟨i + M + 1, _⟩ (Nat.le_add_right _ 1),
    twistLoop_new c mt ⟨i, _⟩ (Nat.lt_add_of_pos_right (by decide)) (Nat.le_of_succ_le h.le)]

/-- The last iteration reads the next word and the middle word as this twist has already written them (R93). -/
theorem twistVector_last :
    readWord (twistVector c mt) 311
      = twistWord c (readWord mt 311) (readWord (twistVector c mt) 0) (readWord (twistVector c mt) 155) := by
  have next : nextIndex 311 = 0 := rfl
  have middle : middleIndex 311 = 155 := rfl
  have last : (311 : Fin N).val = 311 := rfl
  rw [twistVector_readWord, last, next, middle, twistLoop_old c mt 311 last.ge,
    twistLoop_new c mt 0 (by decide) (by decide), twistLoop_new c mt 155 (by decide) (by decide)]

end Table

/-- Settles O25: iteration `i` finds the words from `i` on old and the words before `i` new. -/
theorem twistRegeneratesInPlace : Obligations.TwistRegeneratesInPlace := fun c mt =>
  ⟨fun _ h => twistVector_first_half c mt (Nat.lt_succ_of_le (Nat.add_le_add_right h M)),
    fun _ h => twistVector_second_half c mt (Nat.lt_succ_of_le (Nat.succ_le_succ h)),
    twistVector_last c mt⟩

end Sys2Proof.Machine
end

section
/-! PROOFS. Tempering (R101). -/

namespace Sys2Proof.Machine

/-! ### The corner cases of tempering -/

/-- Shifting right by `d` brings nothing into the `d` high bits of a word, so they pass an XOR with the result. -/
theorem getLsbD_xor_ushiftRight_and (y mask : Word) {d i : Nat} (h : 64 ≤ d + i) :
    (y ^^^ ((y >>> d) &&& mask)).getLsbD i = y.getLsbD i := by
  have shiftedOut : (y >>> d).getLsbD i = false := by
    rw [BitVec.getLsbD_ushiftRight, BitVec.getLsbD_of_ge y _ h]
  rw [BitVec.getLsbD_xor, BitVec.getLsbD_and, shiftedOut, Bool.false_and, Bool.xor_false]

/-- Stage 4 is a right stage whose mask keeps every bit. -/
theorem temper4_eq_allOnes (y : Word) : temper4 y = y ^^^ ((y >>> T_L) &&& BitVec.allOnes 64) := by
  rw [BitVec.and_allOnes, temper4]

/-- Every stage takes the zero word to itself, whatever the masks (R101). -/
theorem temper_zero (c : Config) : temper c 0#64 = 0#64 := by
  simp [temper, temper1, temper2, temper3, temper4]

/-- Settles O27: the stages are the definition, and a right stage keeps the bits above those its shift reaches. -/
theorem temperAppliesFourStages : Obligations.TemperAppliesFourStages := by
  refine fun c => ⟨?_, temper_zero c, fun y i h => ?_, fun y i h => ?_⟩
  · rintro y _ _ _ _ rfl rfl rfl rfl
    rfl
  · exact getLsbD_xor_ushiftRight_and y c.tB (Nat.add_le_add_left h T_U)
  · rw [temper4_eq_allOnes]
    exact getLsbD_xor_ushiftRight_and y _ (Nat.add_le_add_left h T_L)

end Sys2Proof.Machine
end

section
/-! PROOFS. The draw commands (R102, R104, R106). -/

namespace Sys2Proof.Machine

/-- Settles O38: the total function tests the state before the bound and the draw, and its answer
keeps the block. -/
theorem drawCommandsAreRefusedWhileUnseeded : Obligations.DrawCommandsAreRefusedWhileUnseeded := by
  intro i s draws hs
  have refused : transact Config.hardware s.engine (encode i) = (s.engine, errorResponse .stateError) := by
    rw [s.seeded_eq_false_iff.mp hs, transact_draw_unseeded draws]
  rw [exec_eq_settle, refused, State.settle_of_engine_eq rfl]
  rfl

/-- `NEXT_RAW` on a SEEDED block whose draw serves word `i` of `v` answers that word tempered, and leaves `v` and the
cursor past `i` (R102, R104). -/
theorem exec_nextRaw_of_draw_eq (arg : Word) {s : State} {mt v : StateVector} {mti : Cursor} {i : Fin N}
    (seeded : s.engine = .seeded mt mti) (drawn : draw Config.hardware mt mti = serve Config.hardware v i) :
    exec (.nextRaw arg) s =
      .next ((s.withEngine (.seeded v i.succ)).withRsp (some ⟨.ok, temper Config.hardware (readWord v i)⟩)) := by
  have meaning : exec (.nextRaw arg) s = drawCommand Config.hardware formatWhole s := rfl
  rw [meaning, drawCommand_seeded _ _ seeded, drawn, serve_mt, serve_mti, serve_word, formatWhole]

/-- Settles O29: which word a draw serves, and of which generation, is decided by the cursor alone. -/
theorem nextRawServesTheNextWord : Obligations.NextRawServesTheNextWord := by
  refine fun arg s => ⟨rfl, fun unseeded => ?_, fun mt i h seeded => ?_, fun mt seeded => ?_⟩
  · exact drawCommandsAreRefusedWhileUnseeded _ s rfl (s.seeded_eq_false_iff.mpr unseeded)
  · exact exec_nextRaw_of_draw_eq arg seeded (draw_of_lt _ mt _ h)
  · exact exec_nextRaw_of_draw_eq arg seeded (draw_of_eq _ mt _ rfl)

end Sys2Proof.Machine
end

section
/-! PROOFS. The outcomes of a draw command (R66, R106, R115), read off the total function. -/

namespace Sys2Proof.Machine

section Outcomes

variable {i : Instr} {s : State} {mt : StateVector} {mti : Cursor}

/-- A draw command on an UNSEEDED block writes the response alone (R106). -/
theorem exec_draw_unseeded (draws : isDraw i = true) (unseeded : s.engine = .unseeded) :
    exec i s = .next { s with rsp := some ⟨.errState, 0#64⟩ } :=
  drawCommandsAreRefusedWhileUnseeded i s draws (s.seeded_eq_false_iff.mpr unseeded)

/-- A draw command on a SEEDED block, its bound accepted, makes one draw and answers `OK` (step 7 of R66). -/
theorem exec_draw_seeded (draws : isDraw i = true) (accepted : i.opcode = 0x5#4 → 1 ≤ boundOfArg i.argBits)
    (seeded : s.engine = .seeded mt mti) :
    exec i s = .next
      { engine := .seeded (draw Config.hardware mt mti).mt (draw Config.hardware mt mti).mti, host := s.host,
        rsp := some ⟨.ok, formatFor i.opcode (draw Config.hardware mt mti).word i.argBits⟩ } := by
  have notRefused : ¬ (i.opcode = 0x5#4 ∧ boundOfArg i.argBits ≤ 0) :=
    fun ⟨op, refused⟩ => absurd (accepted op) (not_le.mpr (Int.lt_add_one_of_le refused))
  rw [exec_eq_settle, seeded, transact_draw_seeded draws notRefused]
  rfl

/-- A SEEDED block refuses a bound that is not positive and keeps its vector and cursor (step 6 of R66, R124). -/
theorem exec_nextIntBound_refused (ignored : BitVec 32) {bound : BitVec 32} (refused : bound.toInt ≤ 0)
    (seeded : s.engine = .seeded mt mti) :
    exec (.nextIntBound ignored bound) s = .next { s with rsp := some ⟨.errInvalidArg, 0#64⟩ } := by
  have kept : transact Config.hardware s.engine (encode (.nextIntBound ignored bound)) =
      (s.engine, errorResponse .invalidArgument) := by
    rw [seeded, transact_bound_refused ignored refused]
  rw [exec_eq_settle, kept, State.settle_of_engine_eq rfl]
  rfl

end Outcomes

/-- Settles O30: `NEXT_LONG` and `NEXT_RAW` have the same meaning, a draw whose word is answered whole. -/
theorem nextLongAnswersTheWholeDraw : Obligations.NextLongAnswersTheWholeDraw := fun _ _ =>
  ⟨rfl, exec_draw_unseeded rfl, fun _ _ => exec_draw_seeded rfl nofun, fun _ => rfl⟩

/-- Settles O35: zero and the patterns with a sign bit are the bounds that are not positive, and the flag is tested
first. -/
theorem nonPositiveBoundIsRefusedBeforeTheDraw : Obligations.NonPositiveBoundIsRefusedBeforeTheDraw := by
  refine fun ignored bound s pattern => ⟨fun seeded => ?_, drawCommandsAreRefusedWhileUnseeded _ s rfl⟩
  have refused : bound.toInt ≤ 0 := by
    rw [← BitVec.msb_eq_getLsbD_last] at pattern
    rw [BitVec.toInt_eq_neg_toNat_neg_of_nonpos pattern]
    omega
  obtain ⟨mt, mti, engine⟩ := s.seeded_eq_true_iff.mp seeded
  exact exec_nextIntBound_refused ignored refused engine

end Sys2Proof.Machine
end

section
/-! PROOFS. The low half of a draw (R120). -/

namespace Sys2Proof.Machine

/-- Sign extension keeps the bits it starts from. -/
theorem extractLsb'_signExtend (x : BitVec 32) : (x.signExtend 64).extractLsb' 0 32 = x := by
  rw [BitVec.signExtend_eq_append_of_le (by decide)]
  exact BitVec.extractLsb'_append_eq_right

/-- Settles O33: sign extension keeps both the 32 bits of the low half and the number they stand for. -/
theorem nextIntIsTheLowHalfSigned : Obligations.NextIntIsTheLowHalfSigned := fun _ _ =>
  ⟨rfl, exec_draw_unseeded rfl, fun mt mti seeded =>
    ⟨formatInt (draw Config.hardware mt mti).word, exec_draw_seeded rfl nofun seeded,
      extractLsb'_signExtend _, BitVec.toInt_signExtend_of_le (by decide)⟩⟩

end Sys2Proof.Machine
end

section
/-! PROOFS. The encodings of `NEXT_DOUBLE` and `NEXT_FLOAT` (R117 to R119): one layout, one exponent rule and one fraction
rule, over the widths of the two fields. -/

namespace Sys2Proof.Machine

/-! ### The bit length -/

section BitLength

variable {k n : Nat}

/-- A number fits in `n` bits when its bit length is at most `n` (R118). -/
theorem bitLength_le_iff : bitLength k ≤ n ↔ k < 2 ^ n := by
  unfold bitLength
  split
  · next h => simp [h]
  · next h => exact Nat.succ_le_iff.trans (Nat.log2_lt h)

/-- A number has more than `n` bits when it is at least `2^n` (R118). -/
theorem lt_bitLength_iff : n < bitLength k ↔ 2 ^ n ≤ k := by
  rw [← not_le, bitLength_le_iff, not_lt]

/-- A number from `2^n` up to the next power has `n + 1` bits (R118). -/
theorem bitLength_eq_succ (lo : 2 ^ n ≤ k) (hi : k < 2 ^ (n + 1)) : bitLength k = n + 1 :=
  le_antisymm (bitLength_le_iff.mpr hi) (lt_bitLength_iff.mpr lo)

/-- A number other than 0 has a leading bit, and its bit length is the place of that bit plus one. -/
theorem exists_leading_bit (hk : k ≠ 0) : ∃ l, bitLength k = l + 1 ∧ 2 ^ l ≤ k ∧ k < 2 ^ (l + 1) := by
  obtain ⟨l, hl⟩ := Nat.exists_eq_add_one.mpr (lt_bitLength_iff.mpr (Nat.one_le_iff_ne_zero.mpr hk))
  exact ⟨l, hl, lt_bitLength_iff.mp (by omega), bitLength_le_iff.mp hl.le⟩

end BitLength

/-! ### Fraction and exponent -/

/-- The fraction field of `k` for `n` fraction bits: the leading bit moved to place `n` and dropped (R118, R119). -/
def fraction (n k : Nat) : Nat := (k <<< (n + 1 - bitLength k)) &&& (2 ^ n - 1)

theorem fraction_lt (n k : Nat) : fraction n k < 2 ^ n := by
  rw [fraction, Nat.and_two_pow_sub_one_eq_mod]
  exact Nat.mod_lt _ (Nat.two_pow_pos n)

section Significand

variable {n k : Nat}

/-- The fraction with the leading bit before it is `k` itself, shifted. -/
theorem two_pow_add_fraction (hk : k ≠ 0) (hn : k < 2 ^ (n + 1)) :
    2 ^ n + fraction n k = k * 2 ^ (n + 1 - bitLength k) := by
  obtain ⟨l, hl, lo, hi⟩ := exists_leading_bit hk
  obtain ⟨d, rfl⟩ : ∃ d, n = l + d := Nat.exists_eq_add_of_le (by have := bitLength_le_iff.mpr hn; omega)
  have shift : l + d + 1 - bitLength k = d := by omega
  have lo' : 2 ^ (l + d) ≤ k * 2 ^ d := pow_add 2 l d ▸ Nat.mul_le_mul_right _ lo
  have hi' : k * 2 ^ d < 2 * 2 ^ (l + d) := by
    calc k * 2 ^ d < 2 ^ (l + 1) * 2 ^ d := Nat.mul_lt_mul_of_pos_right hi (Nat.two_pow_pos d)
      _ = 2 * 2 ^ (l + d) := by ring
  rw [fraction, shift, Nat.shiftLeft_eq, Nat.and_two_pow_sub_one_eq_mod, Nat.mod_eq_sub_mod lo',
    Nat.mod_eq_of_lt (by omega)]
  omega

/-- Significand and exponent together are `k` over one fixed power of two (R117, R119). -/
theorem significand_mul_two_pow (b : Nat) (hk : k ≠ 0) (hn : k < 2 ^ (n + 1)) :
    (2 ^ n + fraction n k) * 2 ^ (b + bitLength k) = k * 2 ^ (b + n + 1) := by
  have := bitLength_le_iff.mpr hn
  rw [two_pow_add_fraction hk hn, mul_assoc, ← pow_add]
  congr 2
  omega

end Significand

/-! ### The layout -/

/-- The encoding of `k ≠ 0` with sign 0, `m` exponent bits and `n` fraction bits, its exponent biased by `b` from the bit
length: what `toDouble` and `toFloat` have in common (`toDouble_eq`, `toFloat_eq`). -/
def encodeFloat (m n b k : Nat) : BitVec (1 + (m + n)) :=
  0#1 ++ (BitVec.ofNat m (b + bitLength k) ++ BitVec.ofNat n (fraction n k))

section Layout

variable (m n b k : Nat)

theorem encodeFloat_sign : (encodeFloat m n b k).getLsbD (m + n) = false := by
  simp [encodeFloat, BitVec.getElem_append]

theorem encodeFloat_exponent (h : b + bitLength k < 2 ^ m) :
    ((encodeFloat m n b k).extractLsb' n m).toNat = b + bitLength k := by
  rw [encodeFloat, BitVec.extractLsb'_append_eq_of_add_le (Nat.add_comm n m).le, BitVec.extractLsb'_append_eq_left,
    BitVec.toNat_ofNat, Nat.mod_eq_of_lt h]

theorem encodeFloat_fraction : ((encodeFloat m n b k).extractLsb' 0 n).toNat = fraction n k := by
  rw [encodeFloat, BitVec.extractLsb'_append_eq_of_add_le (by omega), BitVec.extractLsb'_append_eq_right,
    BitVec.toNat_ofNat, Nat.mod_eq_of_lt (fraction_lt n k)]

/-- The encoding is exact: with the largest exponent `top` in range and no bit of `k` beyond the fraction, the fields give
`k` back (R117, R119). -/
theorem encodeFloat_value {top : Nat} (htop : b + n + 1 = top) (h : top < 2 ^ m) (hk : k ≠ 0) (hn : k < 2 ^ (n + 1)) :
    let e := ((encodeFloat m n b k).extractLsb' n m).toNat
    let f := ((encodeFloat m n b k).extractLsb' 0 n).toNat
    b + 1 ≤ e ∧ e ≤ top ∧ (2 ^ n + f) * 2 ^ e = k * 2 ^ top := by
  subst htop
  obtain ⟨l, hl, -, -⟩ := exists_leading_bit hk
  have short : bitLength k ≤ n + 1 := bitLength_le_iff.mpr hn
  intro e f
  have he : e = b + bitLength k := encodeFloat_exponent m n b k (by omega)
  have hf : f = fraction n k := encodeFloat_fraction m n b k
  rw [hf, he]
  exact ⟨by omega, by omega, significand_mul_two_pow b hk hn⟩

end Layout

/-! ### The two conversions -/

/-- The 53 high bits of a draw are its quotient by `2^11` (R117). -/
theorem high53_eq (y : Word) : high53 y = y.toNat / 2 ^ 11 := by
  rw [high53, BitVec.toNat_ushiftRight, Nat.shiftRight_eq_div_pow]

theorem high53_lt (y : Word) : high53 y < 2 ^ 53 := by
  have := y.isLt
  rw [high53_eq]
  omega

/-- The 24 high bits of a draw are its quotient by `2^40` (R119). -/
theorem high24_eq (y : Word) : high24 y = y.toNat / 2 ^ 40 := by
  rw [high24, BitVec.toNat_ushiftRight, Nat.shiftRight_eq_div_pow]

theorem high24_lt (y : Word) : high24 y < 2 ^ 24 := by
  have := y.isLt
  rw [high24_eq]
  omega

theorem toDouble_zero {y : Word} (h : high53 y = 0) : toDouble y = 0#64 := if_pos h

theorem toDouble_eq {y : Word} (h : high53 y ≠ 0) : toDouble y = encodeFloat 11 52 969 (high53 y) := if_neg h

theorem toFloat_zero {y : Word} (h : high24 y = 0) : toFloat y = 0#32 := if_pos h

theorem toFloat_eq {y : Word} (h : high24 y ≠ 0) : toFloat y = encodeFloat 8 23 102 (high24 y) := if_neg h

/-- The sign bit of `ToDouble` is 0 (R118). -/
theorem toDouble_sign (y : Word) : (toDouble y).getLsbD 63 = false := by
  by_cases h : high53 y = 0
  · rw [toDouble_zero h, BitVec.getLsbD_zero]
  · rw [toDouble_eq h]
    exact encodeFloat_sign 11 52 969 (high53 y)

/-- The sign bit of `ToFloat` is 0 (R119). -/
theorem toFloat_sign (y : Word) : (toFloat y).getLsbD 31 = false := by
  by_cases h : high24 y = 0
  · rw [toFloat_zero h, BitVec.getLsbD_zero]
  · rw [toFloat_eq h]
    exact encodeFloat_sign 8 23 102 (high24 y)

/-- Zero extension leaves the high half 0. -/
theorem extractLsb'_high_setWidth (x : BitVec 32) : (x.setWidth 64).extractLsb' 32 32 = 0#32 := by
  ext i hi
  simp

/-- Zero extension keeps the sign bit of the low half in its place. -/
theorem getLsbD_31_setWidth (x : BitVec 32) : (x.setWidth 64).getLsbD 31 = x.getLsbD 31 := by
  simp

/-- Settles O31: `ToDouble` is the common encoding with the fields of binary64. -/
theorem nextDoubleIsExact : Obligations.NextDoubleIsExact := by
  refine fun arg s => ⟨rfl, exec_draw_unseeded rfl, fun mt mti seeded =>
    ⟨formatDouble (draw Config.hardware mt mti).word, exec_draw_seeded rfl nofun seeded, ?_⟩⟩
  generalize (draw Config.hardware mt mti).word = y
  rw [← high53_eq, formatDouble]
  refine ⟨toDouble_sign y, toDouble_zero, fun hk => ?_⟩
  rw [toDouble_eq hk]
  exact encodeFloat_value 11 52 969 (high53 y) rfl (by decide) hk (high53_lt y)

/-- Settles O32: `ToFloat` is the common encoding with the fields of binary32, and extension keeps its fields. -/
theorem nextFloatIsExact : Obligations.NextFloatIsExact := by
  refine fun arg s => ⟨rfl, exec_draw_unseeded rfl, fun mt mti seeded =>
    ⟨formatFloat (draw Config.hardware mt mti).word, exec_draw_seeded rfl nofun seeded, ?_⟩⟩
  generalize (draw Config.hardware mt mti).word = y
  rw [← high24_eq, formatFloat, extractLsb'_high_setWidth, getLsbD_31_setWidth,
    BitVec.extractLsb'_setWidth_of_le (by decide), BitVec.extractLsb'_setWidth_of_le (by decide)]
  refine ⟨rfl, toFloat_sign y, fun hk => ?_, fun hk => ?_⟩
  · rw [toFloat_zero hk, BitVec.setWidth_zero]
  · rw [toFloat_eq hk]
    exact encodeFloat_value 8 23 102 (high24 y) rfl (by decide) hk (high24_lt y)

end Sys2Proof.Machine
end

section
/-! PROOFS. Rounding to 53 significant bits (R121), and the bounded result (R122, R123). -/

namespace Sys2Proof.Machine

/-! ### The rounded quotient -/

/-- The significand that `RNE53` keeps when it drops `sh` bits: the quotient, one more where the remainder is over a half,
or is a half and the quotient is odd (R121). `rne53_eq` ties it to `rne53`. -/
def roundedQuotient (p sh : Nat) : Nat :=
  if 2 ^ (sh - 1) < p % 2 ^ sh ∨ (p % 2 ^ sh = 2 ^ (sh - 1) ∧ p / 2 ^ sh % 2 = 1) then p / 2 ^ sh + 1
  else p / 2 ^ sh

section Rounding

variable {p sh : Nat}

/-- Rounding goes down or up, to the nearer side, and on a tie to the even quotient (R121). -/
theorem roundedQuotient_cases (h : 1 ≤ sh) :
    (roundedQuotient p sh = p / 2 ^ sh ∧
      (2 * (p % 2 ^ sh) < 2 ^ sh ∨ 2 * (p % 2 ^ sh) = 2 ^ sh ∧ roundedQuotient p sh % 2 = 0)) ∨
    (roundedQuotient p sh = p / 2 ^ sh + 1 ∧
      (2 ^ sh < 2 * (p % 2 ^ sh) ∨ 2 * (p % 2 ^ sh) = 2 ^ sh ∧ roundedQuotient p sh % 2 = 0)) := by
  have half : 2 * 2 ^ (sh - 1) = 2 ^ sh := mul_pow_sub_one (by omega) 2
  unfold roundedQuotient
  split
  · exact .inr ⟨rfl, by omega⟩
  · exact .inl ⟨rfl, by omega⟩

/-- Rounding moves a number by at most half of the last place it keeps, and by exactly half only to an even multiple
(R121). -/
theorem roundedQuotient_nearest (h : 1 ≤ sh) :
    2 * p ≤ 2 * (roundedQuotient p sh * 2 ^ sh) + 2 ^ sh ∧
    2 * (roundedQuotient p sh * 2 ^ sh) ≤ 2 * p + 2 ^ sh ∧
    (2 * p = 2 * (roundedQuotient p sh * 2 ^ sh) + 2 ^ sh ∨ 2 * (roundedQuotient p sh * 2 ^ sh) = 2 * p + 2 ^ sh →
      roundedQuotient p sh % 2 = 0) := by
  have parts : p / 2 ^ sh * 2 ^ sh + p % 2 ^ sh = p := Nat.div_add_mod' p (2 ^ sh)
  rcases roundedQuotient_cases (p := p) h with ⟨down, side⟩ | ⟨up, side⟩
  · have multiple : roundedQuotient p sh * 2 ^ sh = p / 2 ^ sh * 2 ^ sh := congrArg (· * 2 ^ sh) down
    omega
  · have multiple : roundedQuotient p sh * 2 ^ sh = p / 2 ^ sh * 2 ^ sh + 2 ^ sh := by rw [up, Nat.succ_mul]
    omega

/-- A number of `53 + sh` bits rounds to a significand of 53 bits, or to `2^53` by a carry (R121). -/
theorem roundedQuotient_range (h : 1 ≤ sh) (lo : 2 ^ (52 + sh) ≤ p) (hi : p < 2 ^ (53 + sh)) :
    2 ^ 52 ≤ roundedQuotient p sh ∧ roundedQuotient p sh ≤ 2 ^ 53 := by
  have lower : 2 ^ 52 ≤ p / 2 ^ sh := (Nat.le_div_iff_mul_le (Nat.two_pow_pos sh)).mpr (pow_add 2 52 sh ▸ lo)
  have upper : p / 2 ^ sh < 2 ^ 53 := (Nat.div_lt_iff_lt_mul (Nat.two_pow_pos sh)).mpr (pow_add 2 53 sh ▸ hi)
  rcases roundedQuotient_cases (p := p) h with ⟨down, -⟩ | ⟨up, -⟩ <;> omega

/-! ### `RNE53` -/

/-- `RNE53` keeps a number of at most 53 bits (R121). -/
theorem rne53_of_lt (h : p < 2 ^ 53) : rne53 p = p := if_pos h

/-- `RNE53` of a number of `53 + sh` bits keeps the rounded quotient by `2^sh` (R121). -/
theorem rne53_eq (h : 1 ≤ sh) (lo : 2 ^ (52 + sh) ≤ p) (hi : p < 2 ^ (53 + sh)) :
    rne53 p = roundedQuotient p sh * 2 ^ sh := by
  have large : ¬ p < 2 ^ 53 := not_lt.mpr (le_trans (Nat.pow_le_pow_right two_pos (by omega)) lo)
  have dropped : bitLength p - 53 = sh := by
    rw [bitLength_eq_succ lo (lt_of_lt_of_eq hi (congrArg (2 ^ ·) (by omega)))]
    omega
  rw [rne53, if_neg large, dropped]
  simp only [Nat.shiftLeft_eq, Nat.shiftRight_eq_div_pow, Nat.and_two_pow_sub_one_eq_mod]
  exact (ite_mul _ _ _ _).symm

end Rounding

/-- Settles O36: the distance, the range and the parity are those of the rounded quotient. -/
theorem roundingIsNearestTiesToEven : Obligations.RoundingIsNearestTiesToEven := by
  refine fun p => ⟨rne53_of_lt, fun sh h lo hi => ⟨roundedQuotient p sh, rne53_eq h lo hi, ?_⟩⟩
  obtain ⟨atLeast, atMost⟩ := roundedQuotient_range h lo hi
  rw [rne53_eq h lo hi]
  exact ⟨atLeast, atMost, roundedQuotient_nearest h⟩

/-! ### The bounded result -/

/-- A number of more than 53 bits has `53 + sh` of them. -/
theorem exists_dropped_bits {p : Nat} (h : 2 ^ 53 ≤ p) : ∃ sh, 1 ≤ sh ∧ 2 ^ (52 + sh) ≤ p ∧ p < 2 ^ (53 + sh) := by
  have long : 53 < bitLength p := lt_bitLength_iff.mpr h
  exact ⟨bitLength p - 53, by omega, lt_bitLength_iff.mp (by omega), bitLength_le_iff.mp (by omega)⟩

/-- Rounding does not carry a product `b * k` up to `b * 2^53`: the product misses it by at least `b`, which is more than
half of the last place kept (R123). -/
theorem rne53_mul_lt {b k : Nat} (hb : 1 ≤ b) (hk : k < 2 ^ 53) : rne53 (b * k) < b * 2 ^ 53 := by
  have gap : b * k + b ≤ b * 2 ^ 53 := Nat.mul_le_mul_left b (Nat.succ_le_of_lt hk)
  rcases lt_or_ge (b * k) (2 ^ 53) with small | large
  · rw [rne53_of_lt small]
    omega
  · obtain ⟨sh, h, lo, hi⟩ := exists_dropped_bits large
    obtain ⟨-, near, -⟩ := roundedQuotient_nearest (p := b * k) h
    have halfPlace : 2 ^ sh < 2 * b := by
      have : 2 ^ 52 * 2 ^ sh < 2 ^ 52 * (2 * b) := by
        rw [← pow_add]
        omega
      exact Nat.lt_of_mul_lt_mul_left this
    rw [rne53_eq h lo hi]
    omega

/-- `BoundedInt` as a quotient of the rounded product (R122). -/
theorem boundedInt_eq (b : Nat) (y : Word) : boundedInt b y = rne53 (b * (y.toNat / 2 ^ 11)) / 2 ^ 53 := by
  rw [boundedInt, high53_eq, Nat.shiftRight_eq_div_pow]

/-- The bounded result is below the bound (R123). -/
theorem boundedInt_lt {b : Nat} (hb : 1 ≤ b) (y : Word) : boundedInt b y < b := by
  rw [boundedInt, Nat.shiftRight_eq_div_pow, Nat.div_lt_iff_lt_mul (Nat.two_pow_pos 53)]
  exact rne53_mul_lt hb (high53_lt y)

/-- A positive bound is the number its 32 bits stand for without sign. -/
theorem toInt_eq_toNat_of_pos {bound : BitVec 32} (h : 1 ≤ bound.toInt) : bound.toInt = bound.toNat :=
  BitVec.toInt_eq_toNat_of_lt (BitVec.toInt_pos_iff.mp (by omega))

/-- The answer to an accepted bound holds `BoundedInt`, with nothing lost to the width of the word (R122). -/
theorem toNat_formatBounded {bound : BitVec 32} (h : 1 ≤ bound.toInt) (y : Word) :
    (formatBounded bound.toInt y).toNat = boundedInt bound.toNat y := by
  have positive : 1 ≤ bound.toNat := by
    have := toInt_eq_toNat_of_pos h
    omega
  have fits : boundedInt bound.toNat y < 2 ^ 64 :=
    (boundedInt_lt positive y).trans (bound.isLt.trans (by decide))
  rw [formatBounded, toInt_eq_toNat_of_pos h, Int.toNat_natCast, BitVec.toNat_ofNat, Nat.mod_eq_of_lt fits]

/-- Settles O34: the flag is tested before the bound, and the answer to an accepted bound is `BoundedInt` of the draw. -/
theorem nextIntBoundFloorsTheRoundedProduct : Obligations.NextIntBoundFloorsTheRoundedProduct := by
  refine fun ignored bound s => ⟨rfl, exec_draw_unseeded rfl, fun mt mti seeded =>
    ⟨fun refused => exec_nextIntBound_refused ignored refused seeded, fun accepted =>
      ⟨formatBounded bound.toInt (draw Config.hardware mt mti).word, ?_, ?_, ?_⟩⟩⟩
  · have read : boundOfArg (Instr.nextIntBound ignored bound).argBits = bound.toInt :=
      boundOfArg_nextIntBound ignored bound
    rw [exec_draw_seeded rfl (fun _ => accepted.trans_eq read.symm) seeded, ← read]
    rfl
  · rw [toNat_formatBounded accepted, boundedInt_eq]
  · have := toInt_eq_toNat_of_pos accepted
    rw [toNat_formatBounded accepted, this]
    exact_mod_cast boundedInt_lt (by omega) _

end Sys2Proof.Machine
end

section
/-! PROOFS. The system commands (R130 to R133), read off the total function. -/

namespace Sys2Proof.Machine

/-- The three operations that always fail write the refusal and nothing else (R130 to R132). -/
theorem exec_unsupported {i : Instr} (h : i.opcode ∈ [0x7#4, 0x8#4, 0x9#4]) (s : State) :
    exec i s = .next (s.withRsp (some (errorResponse .unsupported))) := by
  rw [exec_eq_settle, transact_unsupported h, State.settle_of_engine_eq rfl]

/-- `SET_SEED` writes the response alone (R133). -/
theorem exec_setSeed (value : Word) (s : State) :
    exec (.setSeed value) s = .next (s.withRsp (some ⟨.ok, 0#64⟩)) := by
  rw [exec_eq_settle, transact_setSeed, State.settle_of_engine_eq rfl]

/-- Settles O40: the three opcodes are those of step 2 of R66, which no state and no argument passes. -/
theorem unsupportedCommandsAlwaysFail : Obligations.UnsupportedCommandsAlwaysFail := fun _ s =>
  ⟨rfl, rfl, rfl,
    exec_unsupported (by simp [Instr.opcode]) s,
    exec_unsupported (by simp [Instr.opcode]) s,
    exec_unsupported (by simp [Instr.opcode]) s⟩

/-- Settles O41: step 3 of R66 answers `SET_SEED` before the block is looked at. -/
theorem setSeedIsANoOp : Obligations.SetSeedIsANoOp := fun value s =>
  ⟨rfl, exec_setSeed value s⟩

end Sys2Proof.Machine
end

section
/-! PROOFS. Errors (R141): the total function either raises an error and keeps the block, or answers `OK`. -/

namespace Sys2Proof.Machine

/-- The two ways a transaction of R66 ends, along its seven steps: every error is raised with the block as it was (R141),
and every other answer is `OK`. -/
theorem transact_error_or_ok (c : Config) (e : Engine) (w : Command) :
    (∃ k, transact c e w = (e, errorResponse k)) ∨ (transact c e w).2.status = .ok := by
  simp only [transact]
  split_ifs with reserved unsupported setSeed init seeded refused
  · exact .inl ⟨.illegalOp, rfl⟩
  · exact .inl ⟨.unsupported, rfl⟩
  · exact .inr rfl
  · exact .inl ⟨.stateError, rfl⟩
  · exact .inr rfl
  · cases e with
    | unseeded => exact .inl ⟨.stateError, rfl⟩
    | seeded mt mti => exact .inl ⟨.invalidArgument, rfl⟩
  · cases e with
    | unseeded => exact .inl ⟨.stateError, rfl⟩
    | seeded mt mti => exact .inr rfl

/-- Everything a command can do: raise an error, which writes the response and nothing else, or answer `OK`. -/
theorem exec_error_or_ok {i : Instr} {s t : State} (h : exec i s = .next t) :
    (∃ k, t = s.withRsp (some (errorResponse k))) ∨
    (∃ r, t.rsp = some r ∧ r.status = .ok) := by
  rw [exec_eq_settle] at h
  obtain rfl := Host.Outcome.next.inj h
  obtain ⟨k, raised⟩ | ok := transact_error_or_ok Config.hardware s.engine (encode i)
  · exact .inl ⟨k, by rw [raised, State.settle_of_engine_eq rfl]⟩
  · exact .inr ⟨_, rfl, ok⟩

/-- Settles O15: a response that is not `OK` is that of a raised error, which carries no data. -/
theorem errorsChangeNothing : Obligations.ErrorsChangeNothing := by
  intro i s t r hexec hrsp hstatus
  obtain ⟨k, rfl⟩ | ⟨r', answered, ok⟩ := exec_error_or_ok hexec
  · obtain rfl : errorResponse k = r := Option.some.inj hrsp
    rfl
  · obtain rfl : r' = r := Option.some.inj (answered.symm.trans hrsp)
    exact absurd ok hstatus

end Sys2Proof.Machine
end

section
/-! PROOFS. Reset (R165), and what every other event does to `seeded`. -/

namespace Sys2Proof.Machine

/-- Whatever the block held, reset leaves the machine at power-on with the events still to come (R165). -/
theorem applyReset_eq (s : State) : applyReset s = State.reset.withHost s.host := rfl

/-- A transaction of R66 on a SEEDED block leaves it SEEDED: every exit keeps the block, seeds it, or draws from it. -/
theorem isSeeded_transact (c : Config) {e : Engine} (w : Command) (h : e.isSeeded = true) :
    (transact c e w).1.isSeeded = true := by
  cases e with
  | unseeded => exact absurd h Bool.false_ne_true
  | seeded mt mti =>
    simp only [transact]
    split_ifs <;> rfl

/-- No command takes `seeded` from 1 to 0. -/
theorem exec_keeps_seeded {i : Instr} {s t : State} (h : exec i s = .next t) (seeded : s.seeded = true) :
    t.seeded = true := by
  rw [exec_eq_settle] at h
  obtain rfl := Host.Outcome.next.inj h
  exact isSeeded_transact Config.hardware (encode i) seeded

/-- A step of a SEEDED machine that is not presented a reset keeps `seeded`: it holds the state, or runs a command. -/
theorem step_keeps_seeded {s t : State} (h : step s = .next t) (seeded : s.seeded = true)
    (noReset : ∀ rest, s.host ≠ .reset :: rest) : t.seeded = true := by
  match presented : s.host with
  | [] =>
    obtain rfl := Host.Outcome.next.inj ((step_of_nothing presented).symm.trans h)
    exact seeded
  | .reset :: rest => exact absurd presented (noReset rest)
  | .command w :: rest =>
    rw [step_of_command presented] at h
    exact exec_keeps_seeded h seeded

/-- Settles O2: a reset event leads to the state at power-on, and a step without one keeps `seeded`. -/
theorem resetIsTheOnlyWayToUnseed : Obligations.ResetIsTheOnlyWayToUnseed := by
  refine ⟨fun s rest presented => ?_, fun s t stepped seeded unseeded => ?_⟩
  · obtain ⟨flag, mt, mti⟩ := resetLeavesTheBlockUnseeded
    refine ⟨State.reset.withHost rest, ?_, flag, mt, mti, rfl, rfl⟩
    rw [step_of_reset presented, applyReset_eq, State.withHost_host]
  · by_contra noReset
    have kept := step_keeps_seeded stepped seeded (not_exists.mp noReset)
    exact Bool.false_ne_true (unseeded.symm.trans kept)

end Sys2Proof.Machine
end

section
/-! PROOFS. The codec: decoding is the inverse of encoding (R60, R68), sixteen opcodes (R64, R67), and numbers as command
words (log 9). -/

namespace Sys2Proof

/-! ### Commands and words -/

/-- The opcode and the argument of a command stand for that command: the fields of no constructor lose a bit (log 8). -/
@[simp] theorem commandOf_opcode_argBits (i : Instr) : commandOf i.opcode i.argBits = i := by
  cases i <;> simp only [Instr.opcode, Instr.argBits]
  -- only the argument of `NEXT_INT_BOUND` is put together from two fields
  case nextIntBound ignored bound =>
    exact congrArg₂ Instr.nextIntBound BitVec.extractLsb'_append_eq_left BitVec.extractLsb'_append_eq_right
  all_goals rfl

/-- Decoding the word of a command gives the command back (R60, R68). -/
@[simp] theorem decode_encode (i : Instr) : decode (encode i) = i := by
  rw [encode, decode_append, commandOf_opcode_argBits]

/-- A command whose opcode is known is the one that R64 and R67 give this opcode. -/
theorem eq_commandOf_of_opcode_eq {i : Instr} {op : BitVec 4} (h : i.opcode = op) : i = commandOf op i.argBits :=
  h ▸ (commandOf_opcode_argBits i).symm

/-- Settles O8: a command and a word are both determined by an opcode and 64 argument bits. -/
theorem decodeAndEncodeAreInverse : Obligations.DecodeAndEncodeAreInverse :=
  ⟨decode_encode, encode_decode⟩

/-- Settles O7: decoding looks up the opcode field, and the map is that of R64 and R67. -/
theorem opcodeMapDecodes : Obligations.OpcodeMapDecodes := by
  intro arg
  simp only [decode_append]
  exact ⟨rfl, rfl, rfl, rfl, rfl, rfl, rfl, rfl, rfl, rfl, rfl, rfl, rfl, rfl, rfl, rfl⟩

/-- Settles O6: the five words are literals, so decoding them is a computation. -/
theorem writtenCommandWordsDecode : Obligations.WrittenCommandWordsDecode := by
  unfold Obligations.WrittenCommandWordsDecode
  decide

/-! ### Numbers -/

/-- The decoder reads a number as the command word it writes, and refuses a number with a bit above bit 67 (log 9). -/
theorem decodeTableWord_eq (nbits w : Nat) :
    decodeTableWord nbits w = if w < 2 ^ 68 then some (decode (BitVec.ofNat 68 w)) else none := by
  simp only [decodeTableWord, decodeBits, wellFormedWord, decide_eq_true_eq]
  split_ifs <;> rfl

/-- Settles O9: the decoder refuses a number for its size only. -/
theorem onlyCommandWordsDecode : Obligations.OnlyCommandWordsDecode := by
  intro nbits w
  rw [decodeTableWord_eq]
  split
  · next h => exact iff_of_true rfl h
  · next h => exact iff_of_false Bool.false_ne_true h

/-! ### Literals -/

/-- The bits of a literal are its value modulo the size of the word, two's complement when it is negative (R70). -/
theorem Literal.toNat_bits (n : Nat) (l : Literal) : ((l.bits n).toNat : Int) = l.value % 2 ^ n := by
  rw [Literal.bits, BitVec.toNat_ofInt, Int.toNat_of_nonneg (Int.emod_nonneg _ (by positivity))]
  push_cast
  rfl

/-- A decimal bound in the signed 32-bit range is read back as itself (R70). -/
theorem Literal.toInt_bits_of_fitsBound {v : Int} (h : Literal.fitsBound (.dec v) = true) :
    ((Literal.dec v).bits 32).toInt = v := by
  simp only [Literal.fitsBound, Bool.and_eq_true, decide_eq_true_eq] at h
  obtain ⟨lower, upper⟩ := h
  rw [Literal.bits, Literal.value]
  exact BitVec.toInt_ofInt_eq_self (by decide) lower upper

/-- Settles O12: both operands are the literal's bits, read without sign for a seed and with sign for a bound. -/
theorem assembledLiteralsAreTwosComplement : Obligations.AssembledLiteralsAreTwosComplement :=
  ⟨fun l _ => ⟨l.bits 64, rfl, l.toNat_bits 64⟩,
    fun v fits => ⟨(Literal.dec v).bits 32, rfl, Literal.toInt_bits_of_fitsBound fits⟩⟩

end Sys2Proof
end

section
/-! PROOFS. The response word (R62, R63). -/

namespace Sys2Proof.Machine

@[simp] theorem Response.status_toWord (r : Response) : r.toWord.extractLsb' 64 3 = r.status.code :=
  BitVec.extractLsb'_append_eq_left

@[simp] theorem Response.data_toWord (r : Response) : r.toWord.extractLsb' 0 64 = r.data :=
  BitVec.extractLsb'_append_eq_right

/-- Every status has a code of at most 4, so the codes 5 to 7 are of no status (U12). -/
theorem Status.code_le (st : Status) : st.code ≤ 4#3 := by
  cases st <;> decide

/-- Settles O11: the two fields are those that were put together, and the codes are below 5. -/
theorem responseWordHoldsStatusAndData : Obligations.ResponseWordHoldsStatusAndData := by
  refine ⟨fun r => ⟨r.status_toWord, r.data_toWord⟩, rfl, rfl, rfl, rfl, rfl, fun st => ?_⟩
  have := st.code_le
  refine ⟨?_, ?_, ?_⟩ <;> bv_omega

end Sys2Proof.Machine
end

section
/-! PROOFS. What a command can do, said once over all commands: raise an error, do nothing, seed, or draw. The lifecycle
table (R167), the frame of the block (R107) and the invariant between commands (R25, R62) are read off it. -/

namespace Sys2Proof.Machine

/-! ### The four ways a command ends -/

/-- A draw command succeeds on a SEEDED block, `NEXT_INT_BOUND` with a positive bound only (R167). -/
theorem succeedsIn_of_isDraw {i : Instr} (draws : isDraw i = true) (s : State) :
    succeedsIn i s = true ↔ s.seeded = true ∧ (i.opcode = 0x5#4 → 1 ≤ boundOfArg i.argBits) := by
  cases i
  case nextIntBound ignored bound =>
    rw [boundOfArg_nextIntBound]
    simp [succeedsIn, Instr.opcode, boundOperand]
  case nextDouble | nextFloat | nextInt | nextLong | nextRaw => simp [succeedsIn, Instr.opcode]
  all_goals exact absurd draws Bool.false_ne_true

/-- How a command that the block takes in the state `s` ends, with the state it leaves. `exec_ends` ties it to `exec`. -/
inductive Ends (i : Instr) (s : State) : State → Prop where
  /-- An error changes nothing but the response (R141). -/
  | error (k : ErrorKind) (fails : succeedsIn i s = false) : Ends i s (s.withRsp (some (errorResponse k)))
  /-- `SET_SEED` changes nothing but the response (R133). -/
  | noOp (value : Word) (command : i = .setSeed value) : Ends i s (s.withRsp (some ⟨.ok, 0#64⟩))
  /-- `INIT` seeds an UNSEEDED block (R82). -/
  | seed (seed : Word) (command : i = .init seed) (unseeded : s.engine = .unseeded) :
      Ends i s ((s.withEngine (seedEngine seed)).withRsp (some ⟨.ok, 0#64⟩))
  /-- A draw command on a SEEDED block makes one draw (step 7 of R66). -/
  | draw (mt : StateVector) (mti : Cursor) (data : Word) (command : isDraw i = true)
      (succeeds : succeedsIn i s = true) (seeded : s.engine = .seeded mt mti) :
      Ends i s ((s.withEngine (.seeded (draw Config.hardware mt mti).mt (draw Config.hardware mt mti).mti)).withRsp
        (some ⟨.ok, data⟩))

/-- A draw command is refused while UNSEEDED, refused for its bound, or draws (steps 5 to 7 of R66). -/
theorem exec_ends_of_isDraw {i : Instr} (draws : isDraw i = true) (s : State) : ∃ t, exec i s = .next t ∧ Ends i s t := by
  have fails : ¬ (s.seeded = true ∧ (i.opcode = 0x5#4 → 1 ≤ boundOfArg i.argBits)) → succeedsIn i s = false :=
    fun h => Bool.eq_false_of_not_eq_true (mt (succeedsIn_of_isDraw draws s).mp h)
  cases he : s.engine with
  | unseeded =>
    have unseeded : s.seeded = false := s.seeded_eq_false_iff.mpr he
    exact ⟨_, exec_draw_unseeded draws he, .error .stateError (fails (by simp [unseeded]))⟩
  | seeded mt mti =>
    have seeded : s.seeded = true := s.seeded_eq_true_iff.mpr ⟨mt, mti, he⟩
    by_cases accepted : i.opcode = 0x5#4 → 1 ≤ boundOfArg i.argBits
    · exact ⟨_, exec_draw_seeded draws accepted he,
        .draw mt mti _ draws ((succeedsIn_of_isDraw draws s).mpr ⟨seeded, accepted⟩) he⟩
    · obtain ⟨op, refused⟩ := Classical.not_imp.mp accepted
      obtain ⟨ignored, bound, rfl⟩ : ∃ ignored bound, i = .nextIntBound ignored bound :=
        ⟨_, _, eq_commandOf_of_opcode_eq op⟩
      rw [boundOfArg_nextIntBound, not_le] at refused
      exact ⟨_, exec_nextIntBound_refused ignored (Int.le_of_lt_add_one refused) he,
        .error .invalidArgument (fails fun h => accepted h.2)⟩

/-- Every command ends, in one of the four ways. -/
theorem exec_ends (i : Instr) (s : State) : ∃ t, exec i s = .next t ∧ Ends i s t := by
  cases i
  case reserved0 | reservedC | reservedD | reservedE | reservedF =>
    exact ⟨_, raise_eq .illegalOp s, .error .illegalOp rfl⟩
  case nextBoolean | nextBytes | nextGaussian =>
    exact ⟨_, raise_eq .unsupported s, .error .unsupported rfl⟩
  case setSeed value =>
    exact ⟨_, exec_setSeed value s, .noOp value rfl⟩
  case init seed =>
    cases he : s.engine with
    | unseeded => exact ⟨_, execInit_unseeded seed he, .seed seed rfl he⟩
    | seeded mt mti =>
      have seeded : s.seeded = true := s.seeded_eq_true_iff.mpr ⟨mt, mti, he⟩
      exact ⟨_, execInit_seeded seed he, .error .stateError (by simp [succeedsIn, seeded])⟩
  case nextDouble | nextFloat | nextInt | nextIntBound | nextLong | nextRaw =>
    exact exec_ends_of_isDraw rfl s

/-- What is known of the state a command leaves. -/
theorem ends_of_exec_eq {i : Instr} {s t : State} (h : exec i s = .next t) : Ends i s t := by
  obtain ⟨t', h', ends⟩ := exec_ends i s
  exact Host.Outcome.next.inj (h'.symm.trans h) ▸ ends

/-! ### The lifecycle table (R167) -/

/-- No error is answered `OK` (R140). -/
theorem errorResponse_status_ne_ok (k : ErrorKind) : (errorResponse k).status ≠ .ok := by
  cases k <;> decide

/-- `INIT` fails on a SEEDED block only. -/
theorem seeded_of_init_fails {i : Instr} {s : State} (op : i.opcode = 0x1#4) (fails : succeedsIn i s = false) :
    s.seeded = true := by
  obtain ⟨seed, rfl⟩ : ∃ seed, i = .init seed := ⟨_, eq_commandOf_of_opcode_eq op⟩
  simpa [succeedsIn] using fails

/-- Settles O14: each of the four ways to end answers, and answers `OK` where the table says so. -/
theorem everyCommandIsAnsweredByTheLifecycleTable : Obligations.EveryCommandIsAnsweredByTheLifecycleTable := by
  intro i s
  obtain ⟨t, h, ends⟩ := exec_ends i s
  cases ends with
  | error k fails =>
    refine ⟨_, _, h, rfl, rfl, ?_, ?_⟩
    · simp [errorResponse_status_ne_ok, fails]
    · have kept : i.opcode = 0x1#4 → s.seeded = true := fun op => seeded_of_init_fails op fails
      simpa using kept
  | noOp value command =>
    subst command
    exact ⟨_, _, h, rfl, rfl, by simp [succeedsIn], by simp [Instr.opcode]⟩
  | seed seed command unseeded =>
    subst command
    have flag : s.seeded = false := s.seeded_eq_false_iff.mpr unseeded
    exact ⟨_, _, h, rfl, rfl, by simp [succeedsIn, flag], by simp [Instr.opcode, seedEngine, Engine.isSeeded]⟩
  | draw mt mti data command succeeds seeded =>
    have flag : s.seeded = true := s.seeded_eq_true_iff.mpr ⟨mt, mti, seeded⟩
    exact ⟨_, _, h, rfl, rfl, iff_of_true rfl succeeds, by simp [flag, Engine.isSeeded]⟩

/-! ### The frame of the block (R107) -/

/-- Settles O16: of the four ways to end, only seeding and drawing write the block. -/
theorem onlyInitAndDrawsChangeTheBlock : Obligations.OnlyInitAndDrawsChangeTheBlock := by
  intro i s t h changed
  cases ends_of_exec_eq h with
  | error => exact absurd rfl changed
  | noOp => exact absurd rfl changed
  | seed seed command unseeded => exact .inl ⟨seed, command, s.seeded_eq_false_iff.mpr unseeded⟩
  | draw mt mti data command _ seeded =>
    exact .inr ⟨command, s.seeded_eq_true_iff.mpr ⟨mt, mti, seeded⟩, data, rfl⟩

/-! ### The invariant between commands (R25, R62) -/

/-- A draw leaves the cursor past the word it served, so never at 0 (R25, R102). -/
theorem one_le_draw_mti (c : Config) (mt : StateVector) (mti : Cursor) : 1 ≤ (draw c mt mti).mti.val := by
  rcases Nat.lt_or_eq_of_le (Nat.le_of_lt_succ mti.isLt) with inside | atEnd
  · rw [draw_of_lt c mt mti inside, serve_mti, Fin.val_succ]
    exact Nat.le_add_left 1 _
  · rw [draw_of_eq c mt mti atEnd, serve_mti, Fin.val_succ]
    exact Nat.le_add_left 1 _

namespace State.Inv

variable {s : State}

/-- The invariant does not speak of the events to come. -/
theorem withHost (h : s.Inv) (events : List HostEvent) : (s.withHost events).Inv := h

/-- An answer keeps the invariant when it carries no data with an error. -/
theorem withRsp (h : s.Inv) {r : Response} (noData : r.status ≠ .ok → r.data = 0#64) : (s.withRsp (some r)).Inv :=
  ⟨h.1, fun _ answered => Option.some.inj answered ▸ noData⟩

/-- Another vector keeps the invariant when its cursor is not 0. -/
theorem withEngine (h : s.Inv) (mt : StateVector) {mti : Cursor} (pos : 1 ≤ mti.val) :
    (s.withEngine (.seeded mt mti)).Inv :=
  ⟨fun _ read => Option.some.inj read ▸ pos, h.2⟩

end State.Inv

/-- With no vector, no cursor and no response there is nothing to keep. -/
theorem inv_of_unseeded {s : State} (unseeded : s.engine = .unseeded) (silent : s.rsp = none) : s.Inv := by
  refine ⟨fun mti read => ?_, fun r answered => ?_⟩
  · exact nomatch (State.mti?_of_unseeded unseeded).symm.trans read
  · exact nomatch silent.symm.trans answered

/-- Every command keeps the invariant, whichever way it ends. -/
theorem Ends.inv {i : Instr} {s t : State} (ends : Ends i s t) (h : s.Inv) : t.Inv := by
  cases ends with
  | error k => exact h.withRsp fun _ => rfl
  | noOp => exact h.withRsp fun _ => rfl
  | seed seed => exact (h.withEngine (seedVector seed) (by decide)).withRsp fun _ => rfl
  | draw mt mti => exact (h.withEngine _ (one_le_draw_mti _ mt mti)).withRsp fun notOk => absurd rfl notOk

/-- Settles O17: an idle step holds the state, a reset leaves nothing to keep, and a command ends in one of four ways. -/
theorem stepKeepsTheCursorOffZero : Obligations.StepKeepsTheCursorOffZero := by
  intro s t inv stepped
  match presented : s.host with
  | [] =>
    rw [step_of_nothing presented] at stepped
    exact Host.Outcome.next.inj stepped ▸ inv
  | .reset :: rest =>
    rw [step_of_reset presented] at stepped
    exact Host.Outcome.next.inj stepped ▸ inv_of_unseeded (applyReset_engine _) (applyReset_rsp _)
  | .command w :: rest =>
    rw [step_of_command presented] at stepped
    exact (ends_of_exec_eq stepped).inv (inv.withHost rest)

/-- Settles O18: the machine after reset is UNSEEDED and has answered nothing. -/
theorem resetMeetsTheCursorInvariant : Obligations.ResetMeetsTheCursorInvariant :=
  inv_of_unseeded State.reset_engine rfl

end Sys2Proof.Machine
end

section
/-! PROOFS. The step: what each event the host presents does (R60, R61, R160), and a word presented next (log 1). -/

namespace Sys2Proof.Machine

/-- Settles O3: a step takes the event from the list and runs its command. -/
theorem stepRunsTheDecodedCommand : Obligations.StepRunsTheDecodedCommand :=
  fun _ _ _ presented => step_of_command presented

/-- Settles O4: a step that finds nothing presented is idle. -/
theorem stepWithNothingPresentedHoldsTheState : Obligations.StepWithNothingPresentedHoldsTheState :=
  fun _ nothing => step_of_nothing nothing

/-- Presenting a word and running its command leaves what the host presented before. -/
theorem step_withFetchWord (s : State) (nbits w : Nat) :
    step (s.withFetchWord nbits w) = exec (decode (BitVec.ofNat 68 w)) s :=
  step_of_command rfl

/-- Settles O5: the decoder and `withFetchWord` take a number as the same command word. -/
theorem fetchWordIsRunNext : Obligations.FetchWordIsRunNext := by
  intro s nbits w i read
  rw [decodeTableWord_eq] at read
  obtain ⟨-, decoded⟩ := Option.ite_none_right_eq_some.mp read
  rw [step_withFetchWord, ← Option.some.inj decoded]

end Sys2Proof.Machine
end

section
/-! PROOFS. What seeding determines (R85) and what it rules out (R92), and the zero vector under the twist (R92). -/

namespace Sys2Proof.Machine

/-! ### Reset and `INIT` -/

/-- A machine seeded from its reset state, with nothing presented: the seed is all that it depends on. -/
def State.seededFrom (seed : Word) : State := ⟨seedEngine seed, [], some ⟨.ok, 0#64⟩⟩

/-- Two steps that take a reset and an `INIT` lead from any state to the one that the seed determines (R85, R165). -/
theorem steps_reset_init (seed : Word) (s : State) :
    steps 2 (s.withHost [.reset, .command (encode (.init seed))]) = .next (State.seededFrom seed) := by
  have reset : step (s.withHost [.reset, .command (encode (.init seed))]) =
      .next (State.reset.withHost [.command (encode (.init seed))]) :=
    step_of_reset rfl
  have init : step (State.reset.withHost [.command (encode (.init seed))]) = .next (State.seededFrom seed) := by
    rw [step_of_command rfl, decode_encode]
    exact execInit_unseeded (s := State.reset) seed rfl
  rw [steps_succ 1 reset, steps_succ 0 init, steps_zero]

/-- Settles O22: the state after the two events is a function of the seed. -/
theorem resetAndInitForgetThePast : Obligations.ResetAndInitForgetThePast := fun seed s₁ s₂ =>
  ⟨State.seededFrom seed, steps_reset_init seed s₁, steps_reset_init seed s₂, rfl⟩

/-! ### The zero vector -/

/-- Every word of the zero vector is 0. -/
@[simp] theorem readWord_zero (i : Fin N) : readWord (Vector.replicate N 0#64) i = 0#64 :=
  Vector.getElem_replicate i.isLt

/-- Writing a word that is already there changes nothing. -/
theorem writeWord_of_readWord_eq {mt : StateVector} {i : Fin N} {v : Word} (h : readWord mt i = v) :
    writeWord mt i v = mt := by
  subst h
  exact Vector.set_getElem_self i.isLt

/-- Seeding leaves no zero vector: a word 0 of zero is followed by `SeedStep(0, 1) = 1` (R81, R92). -/
theorem seedVector_ne_zero (seed : Word) : seedVector seed ≠ Vector.replicate N 0#64 := by
  intro zero
  have word1 := seedVector_succ seed 0 (by decide)
  rw [zero, readWord_zero, readWord_zero] at word1
  exact absurd word1 (by decide)

/-- Settles O23: the vector that `INIT` leaves is the seeded one. -/
theorem initNeverLeavesTheZeroVector : Obligations.InitNeverLeavesTheZeroVector := by
  intro seed s t mt unseeded answered read
  obtain rfl := Host.Outcome.next.inj ((execInit_unseeded seed unseeded).symm.trans answered)
  exact Option.some.inj read ▸ seedVector_ne_zero seed

/-- Three zero words are mixed to a zero word, whatever the masks (R91). -/
theorem twistWord_zero (c : Config) : twistWord c 0#64 0#64 0#64 = 0#64 := by
  simp [twistWord]

/-- Each iteration of the twist writes a zero word over a zero word. -/
theorem twistIter_zero (c : Config) (i : Nat) :
    twistIter c i (Vector.replicate N 0#64) = Vector.replicate N 0#64 := by
  apply writeWord_of_readWord_eq
  simp only [readWord_zero, twistWord_zero]

/-- The zero vector stays through any number of iterations. -/
theorem twistLoop_zero (c : Config) (k : Nat) :
    twistLoop c k (Vector.replicate N 0#64) = Vector.replicate N 0#64 := by
  induction k with
  | zero => rfl
  | succ k ih => rw [twistLoop, ih, twistIter_zero]

/-- Settles O26: the twist is `N` of the iterations that keep the zero vector. -/
theorem twistKeepsTheZeroVector : Obligations.TwistKeepsTheZeroVector := fun c => twistLoop_zero c N

/-! ### The bounded result -/

/-- Settles O37: rounding does not carry the product up to the bound. -/
theorem boundedResultsStayBelowTheBound : Obligations.BoundedResultsStayBelowTheBound :=
  fun _ y positive _ => Nat.le_sub_one_of_lt (boundedInt_lt positive y)

end Sys2Proof.Machine
end

section
/-! PROOFS. Tempering is a linear bijection for any masks (R105): each stage is linear over XOR and its kernel is zero. -/

namespace Sys2Proof.Machine

/-! ### Maps that are linear over XOR -/

/-- A mask distributes over XOR, since it does bit by bit. -/
theorem and_xor_distrib_right (a b mask : Word) : (a ^^^ b) &&& mask = (a &&& mask) ^^^ (b &&& mask) := by
  ext i hi
  simp only [BitVec.getElem_xor, BitVec.getElem_and, Bool.and_xor_distrib_right]

/-- A map of words that commutes with XOR (R105). -/
def XorLinear (f : Word → Word) : Prop := ∀ a b : Word, f (a ^^^ b) = f a ^^^ f b

namespace XorLinear

variable {f g : Word → Word}

theorem comp (hf : XorLinear f) (hg : XorLinear g) : XorLinear (f ∘ g) := fun a b =>
  (congrArg f (hg a b)).trans (hf (g a) (g b))

/-- A linear map that takes only zero to zero is injective: two words with one image have a difference of image zero. -/
theorem injective (hf : XorLinear f) (kernel : ∀ y, f y = 0#64 → y = 0#64) : Function.Injective f := by
  intro a b same
  apply BitVec.xor_eq_zero_iff.mp
  apply kernel
  rw [hf, same, BitVec.xor_self]

/-- What a tempering stage does with a linear map is linear: XOR a word with its masked image. -/
theorem xor_and (hf : XorLinear f) (mask : Word) : XorLinear fun y => y ^^^ (f y &&& mask) := by
  intro a b
  simp only [hf a b, and_xor_distrib_right]
  ac_rfl

theorem ushiftRight (d : Nat) : XorLinear (· >>> d) := fun a b => BitVec.ushiftRight_xor_distrib a b d

theorem shiftLeft (d : Nat) : XorLinear (· <<< d) := fun a b => BitVec.shiftLeft_xor_distrib a b d

end XorLinear

/-! ### The kernel of a stage -/

/-- Only the zero word is its own image under a right shift and a mask: the image is at most half of the word. -/
theorem eq_zero_of_ushiftRight_and {y mask : Word} {d : Nat} (hd : 1 ≤ d) (h : y ^^^ ((y >>> d) &&& mask) = 0#64) :
    y = 0#64 := by
  have image : y = (y >>> d) &&& mask := BitVec.xor_eq_zero_iff.mp h
  have half : y.toNat ≤ y.toNat / 2 ^ d := by
    calc y.toNat = ((y >>> d) &&& mask).toNat := congrArg BitVec.toNat image
      _ ≤ (y >>> d).toNat := by rw [BitVec.toNat_and]; exact Nat.and_le_left
      _ = y.toNat / 2 ^ d := by rw [BitVec.toNat_ushiftRight, Nat.shiftRight_eq_div_pow]
  by_contra nonzero
  have pos : 0 < y.toNat := Nat.pos_of_ne_zero fun zero => nonzero (BitVec.eq_of_toNat_eq zero)
  exact absurd half (not_le.mpr (Nat.div_lt_self pos (Nat.one_lt_two_pow (by omega))))

/-- Only the zero word is its own image under a left shift and a mask: each bit is a lower bit, or is 0. -/
theorem eq_zero_of_shiftLeft_and {y mask : Word} {d : Nat} (hd : 1 ≤ d) (h : y ^^^ ((y <<< d) &&& mask) = 0#64) :
    y = 0#64 := by
  have image : y = (y <<< d) &&& mask := BitVec.xor_eq_zero_iff.mp h
  have bits : ∀ i, y.getLsbD i = false := by
    intro i
    induction i using Nat.strong_induction_on with
    | _ i lower =>
      have shifted : (y <<< d).getLsbD i = false := by
        rw [BitVec.getLsbD_shiftLeft]
        by_cases below : i < d
        · simp [below]
        · rw [lower (i - d) (by omega), Bool.and_false]
      rw [image, BitVec.getLsbD_and, shifted, Bool.false_and]
  exact BitVec.eq_of_getLsbD_eq fun i _ => (bits i).trans BitVec.getLsbD_zero.symm

/-! ### The stages and their composition -/

section Stages

variable (c : Config)

theorem xorLinear_temper1 : XorLinear (temper1 c) := (XorLinear.ushiftRight T_U).xor_and c.tB
theorem xorLinear_temper2 : XorLinear (temper2 c) := (XorLinear.shiftLeft T_S).xor_and c.tC
theorem xorLinear_temper3 : XorLinear (temper3 c) := (XorLinear.shiftLeft T_T).xor_and c.tD

theorem xorLinear_temper4 : XorLinear temper4 := by
  rw [funext temper4_eq_allOnes]
  exact (XorLinear.ushiftRight T_L).xor_and (BitVec.allOnes 64)

theorem injective_temper1 : Function.Injective (temper1 c) :=
  (xorLinear_temper1 c).injective fun _ => eq_zero_of_ushiftRight_and (by decide)
theorem injective_temper2 : Function.Injective (temper2 c) :=
  (xorLinear_temper2 c).injective fun _ => eq_zero_of_shiftLeft_and (by decide)
theorem injective_temper3 : Function.Injective (temper3 c) :=
  (xorLinear_temper3 c).injective fun _ => eq_zero_of_shiftLeft_and (by decide)

theorem injective_temper4 : Function.Injective temper4 :=
  xorLinear_temper4.injective fun y zero =>
    eq_zero_of_ushiftRight_and (d := T_L) (by decide) ((temper4_eq_allOnes y).symm.trans zero)

/-- `Temper` is the composition of its stages (R101). -/
theorem temper_eq_comp : temper c = temper4 ∘ temper3 c ∘ temper2 c ∘ temper1 c := rfl

end Stages

/-- Settles O28: the four stages are linear and injective, and an injective map of the 2^64 words is a bijection. -/
theorem temperIsALinearBijection : Obligations.TemperIsALinearBijection := by
  intro c
  rw [temper_eq_comp]
  exact ⟨Finite.injective_iff_bijective.mp
      (injective_temper4.comp ((injective_temper3 c).comp ((injective_temper2 c).comp (injective_temper1 c)))),
    xorLinear_temper4.comp ((xorLinear_temper3 c).comp ((xorLinear_temper2 c).comp (xorLinear_temper1 c)))⟩

end Sys2Proof.Machine
end

section
/-! PROOFS. The stream of draws: which word of which generation each draw serves (R33, R103), and the system commands, which
take nothing from it (R134). -/

namespace Sys2Proof.Machine

/-! ### The block after a number of draws -/

/-- The generation that the `j`-th draw is served from, counted from a vector whose words are all served: the vector
twisted `ceil(j / N)` times (R33). -/
def generation (c : Config) (mt : StateVector) (j : Nat) : StateVector := (twistVector c)^[(j + 311) / 312] mt

/-- The cursor after `j` draws from a vector whose words are all served: `N` at first, then `(j - 1) mod N + 1` (R103). -/
def cursorAfter (j : Nat) : Cursor := ⟨(j + 311) % 312 + 1, by omega⟩

section Draws

variable (c : Config) (mt : StateVector) (j : Nat)

/-- Where `j` is a multiple of `N` the next draw opens a new generation. -/
theorem generation_succ_of_dvd (h : j % 312 = 0) : generation c mt (j + 1) = twistVector c (generation c mt j) := by
  have opens : (j + 1 + 311) / 312 = (j + 311) / 312 + 1 := by omega
  rw [generation, opens, Function.iterate_succ_apply']
  rfl

/-- Where `j` is no multiple of `N` the next draw stays in the generation. -/
theorem generation_succ_of_not_dvd (h : j % 312 ≠ 0) : generation c mt (j + 1) = generation c mt j := by
  have stays : (j + 1 + 311) / 312 = (j + 311) / 312 := by omega
  rw [generation, stays]
  rfl

/-- The cursor after one more draw is past word `j mod N`. -/
theorem cursorAfter_succ : cursorAfter (j + 1) = (wrap j).succ := by
  apply Fin.ext
  simp only [cursorAfter, Fin.val_succ, wrap_val, N]
  omega

/-- The draw after `j` draws serves word `j mod N` of its generation (R33, R102). -/
theorem draw_after : draw c (generation c mt j) (cursorAfter j) = serve c (generation c mt (j + 1)) (wrap j) := by
  by_cases h : j % 312 = 0
  · have atEnd : (cursorAfter j).val = N := by
      simp only [cursorAfter, N]
      omega
    have first : wrap j = 0 := Fin.ext h
    rw [draw_of_eq c _ _ atEnd, generation_succ_of_dvd c mt j h, first]
  · have inside : (cursorAfter j).val = (wrap j).val := by
      simp only [cursorAfter, wrap_val, N]
      omega
    have served : (⟨(cursorAfter j).val, inside.trans_lt (wrap j).isLt⟩ : Fin N) = wrap j := Fin.ext inside
    rw [draw_of_lt c _ _ (inside.trans_lt (wrap j).isLt), generation_succ_of_not_dvd c mt j h, served]

end Draws

/-- The block after `j` draws from a vector whose words are all served. -/
def drawnEngine (mt : StateVector) (j : Nat) : Engine :=
  .seeded (generation Config.hardware mt j) (cursorAfter j)

/-! ### Runs of draw commands -/

/-- Whether a command is a draw command that a SEEDED block answers `OK`: its bound, if it has one, is positive (R167). -/
def AcceptedDraw (i : Instr) : Prop := isDraw i = true ∧ (i.opcode = 0x5#4 → 1 ≤ boundOfArg i.argBits)

theorem acceptedDraw_of_succeedsIn {i : Instr} {s : State} (draws : isDraw i = true) (succeeds : succeedsIn i s = true) :
    AcceptedDraw i :=
  ⟨draws, ((succeedsIn_of_isDraw draws s).mp succeeds).2⟩

section Runs

variable {s : State} {mt : StateVector} {j : Nat} {rest : List HostEvent}

/-- A step that runs a draw command is one draw, and answers what the command's format makes of word `j mod N`. -/
theorem step_acceptedDraw {w : Command} (at_j : s.engine = drawnEngine mt j) (presented : s.host = .command w :: rest)
    (accepted : AcceptedDraw (decode w)) :
    ∃ t, step s = .next t ∧ t.engine = drawnEngine mt (j + 1) ∧ t.host = rest ∧
      t.rsp = some ⟨.ok, formatFor (decode w).opcode
        (temper Config.hardware (readWord (generation Config.hardware mt (j + 1)) (wrap j))) (decode w).argBits⟩ := by
  have seeded : (s.withHost rest).engine = drawnEngine mt j := at_j
  refine ⟨_, (step_of_command presented).trans (exec_draw_seeded accepted.1 accepted.2 seeded), ?_, rfl, ?_⟩
  · rw [draw_after, drawnEngine, cursorAfter_succ, serve_mt, serve_mti]
  · rw [draw_after, serve_word]

/-- A run of draw commands moves the block on by their number. -/
theorem steps_acceptedDraws {cmds : List Command} (at_j : s.engine = drawnEngine mt j)
    (presented : s.host = cmds.map HostEvent.command ++ rest) (accepted : ∀ w ∈ cmds, AcceptedDraw (decode w)) :
    ∃ t, steps cmds.length s = .next t ∧ t.host = rest ∧ t.engine = drawnEngine mt (j + cmds.length) := by
  induction cmds generalizing s j with
  | nil => exact ⟨s, rfl, presented, at_j⟩
  | cons w cmds ih =>
    obtain ⟨u, stepped, engine, host, -⟩ := step_acceptedDraw at_j presented (accepted w List.mem_cons_self)
    obtain ⟨t, run, host', engine'⟩ := ih engine host fun w' mem => accepted w' (List.mem_cons_of_mem w mem)
    refine ⟨t, (steps_succ _ stepped).trans run, host', ?_⟩
    rw [engine', List.length_cons, Nat.add_assoc, Nat.add_comm 1]

end Runs

/-- A run of `k + l` steps is a run of `k` steps and one of `l` steps from where that leads. -/
theorem steps_add {s t : State} {k : Nat} (l : Nat) (h : steps k s = .next t) : steps (k + l) s = steps l t := by
  induction k generalizing s with
  | zero =>
    obtain rfl := Host.Outcome.next.inj h
    rw [Nat.zero_add]
  | succ k ih =>
    cases stepped : step s with
    | next u =>
      rw [steps_succ k stepped] at h
      rw [Nat.succ_add, steps_succ _ stepped, ih h]
    | fault r => nomatch r
    | refused r => simp only [steps, stepped, reduceCtorEq] at h

/-- Settles O39: all draws but the last move the block on, and the last one serves word `j - 1` counted from there. -/
theorem drawsServeTheGenerationsInOrder : Obligations.DrawsServeTheGenerationsInOrder := by
  intro s mt cmds seeded presented nonempty draws
  have accepted : ∀ w ∈ cmds, AcceptedDraw (decode w) := fun w mem =>
    acceptedDraw_of_succeedsIn (draws w mem).1 (draws w mem).2
  obtain ⟨before, last, rfl⟩ := (List.eq_nil_or_concat' cmds).resolve_left nonempty
  have length : (before ++ [last]).length = before.length + 1 := List.length_append
  obtain ⟨u, run, host, engine⟩ := steps_acceptedDraws (j := 0) (rest := [.command last]) seeded
    (presented.trans List.map_append) fun w mem => accepted w (List.mem_append_left _ mem)
  rw [Nat.zero_add] at engine
  obtain ⟨t, stepped, engine', host', rsp⟩ :=
    step_acceptedDraw engine host (accepted last List.mem_concat_self)
  rw [length]
  refine ⟨t, cursorAfter (before.length + 1), ?_, host', engine', ?_, fun w arg isLast command => ?_⟩
  · rw [steps_add 1 run, steps_succ 0 stepped, steps_zero]
  · simp only [cursorAfter]
    omega
  · obtain rfl : last = w := Option.some.inj (List.getLast?_concat.symm.trans isLast)
    rw [rsp, command]
    rfl

/-! ### System commands -/

/-- A system command leaves the block alone and answers the same in every state (R130 to R133). -/
theorem transact_system {w : Command} (system : isSystem (decode w) = true) :
    ∃ r, ∀ e, transact Config.hardware e w = (e, r) := by
  have ops : ∀ op ∈ [0x7#4, 0x8#4, 0x9#4, 0xA#4], op ∈ [0x7#4, 0x8#4, 0x9#4] ∨ op = 0xA#4 := by decide
  rcases ops _ (of_decide_eq_true system) with unsupported | setSeed
  · refine ⟨errorResponse .unsupported, fun e => ?_⟩
    rw [← encode_decode w, transact_unsupported unsupported]
  · refine ⟨⟨.ok, 0#64⟩, fun e => ?_⟩
    obtain ⟨value, command⟩ : ∃ value, decode w = .setSeed value := ⟨_, eq_commandOf_of_opcode_eq setSeed⟩
    rw [← encode_decode w, command, transact_setSeed]

/-- The host sees the response of each command, and then those of the commands after it. -/
theorem transcript_cons (w : Command) (ws : List Command) (s : State) :
    transcript (w :: ws) s = (transact Config.hardware s.engine w).2 ::
      transcript ws ⟨(transact Config.hardware s.engine w).1, [], some (transact Config.hardware s.engine w).2⟩ := by
  have stepped : step (s.offer w) = .next
      ⟨(transact Config.hardware s.engine w).1, [], some (transact Config.hardware s.engine w).2⟩ :=
    (step_of_command rfl).trans (machineRefinesTheTotalStepFunction _ w)
  simp only [transcript, stepped, Option.toList_some, List.singleton_append]

/-- What the host sees depends on the block alone. -/
theorem transcript_congr {s s' : State} (ws : List Command) (h : s.engine = s'.engine) :
    transcript ws s = transcript ws s' := by
  cases ws with
  | nil => rfl
  | cons w ws => rw [transcript_cons, transcript_cons, h]

/-- Settles O42: where the system command stands its response comes first, and the block goes on as it was. -/
theorem systemCommandsLeaveTheStreamAlone : Obligations.SystemCommandsLeaveTheStreamAlone := by
  intro s w earlier later system
  obtain ⟨r, answer⟩ := transact_system system
  refine ⟨r, ?_⟩
  induction earlier generalizing s with
  | nil =>
    have resumed : transcript later ⟨s.engine, [], some r⟩ = transcript later s := transcript_congr later rfl
    rw [List.nil_append, transcript_cons, answer, resumed]
    rfl
  | cons w' earlier ih =>
    rw [List.cons_append, List.cons_append, transcript_cons, transcript_cons, ih]
    rfl

end Sys2Proof.Machine
end
